-- ==== Sys2Proof/Word.lean ====
section
/-!
DEFINITION. The word types of the core: an 8-bit data word and a 16-bit address (spec R6, R8).
Byte assembly, extension and splitting stand in Machine/Bytes.lean.
-/

namespace Sys2Proof

/-- A `u8`: register contents, memory cells, instruction bytes (R6, R8). -/
abbrev Byte := BitVec 8

/-- A `u16`: the program counter and every address (R6, R8). -/
abbrev Addr := BitVec 16

end Sys2Proof
end

