-- ==== Sys2Proof/Machine/Bytes.lean ====
section
/-!
DEFINITION. Byte order, splitting and extension (R8, R52, R72).
-/

namespace Sys2Proof.Machine

/-- `hi:lo`, the 16-bit value `(hi << 8) | lo` (R8). -/
def wordOf (hi lo : Byte) : Addr := hi ++ lo

/-- `v[7:0]` (R8). -/
def lowByte (v : Addr) : Byte := v.extractLsb' 0 8

/-- `v[15:8]` (R8). -/
def highByte (v : Addr) : Byte := v.extractLsb' 8 8

/-- `zext_16(v)` (R8). -/
def zext16 (v : Byte) : Addr := v.setWidth 16

/-- `sext_16(v)` (R8): bit 7 copied into bits 15..8. -/
def sext16 (v : Byte) : Addr := v.signExtend 16

end Sys2Proof.Machine
end

