-- ==== Sys2Proof/Config.lean ====
section
/-!
DEFINITION. What is fixed for a run (R7, R39): the parameters of the model as plain data, and the one free value of
the spec, the byte a PPU-window read returns (R45, D2).
-/

namespace Sys2Proof

/-- The two admitted lengths of a PRG image, 16384 and 32768 bytes; no other image has a run (R34, R47, D3). -/
inductive PrgSize where
  /-- 16384 bytes, mirrored in the window. -/
  | bank16K
  /-- 32768 bytes, the whole window. -/
  | bank32K
  deriving DecidableEq, Repr

/-- The length in bytes of an image (R34). -/
def PrgSize.bytes : PrgSize → Nat
  | .bank16K => 16384
  | .bank32K => 32768

/-- A cartridge PRG-ROM image: its length and the offsets whose byte is not 0x00, strictly rising.
DESIGN CHOICE (log entry 4): the byte sequence of R34 is held sparsely; safe. -/
structure PrgImage where
  size  : PrgSize
  cells : List (Nat × Byte)
  deriving DecidableEq, Repr

/-- The parameter `MAP` (R7, D1). The PRG image is required exactly when the map is famicom. -/
inductive BusMap where
  /-- The console's decoder: RAM, PPU, UNMAPPED and PRG windows (R41). -/
  | famicom (prg : PrgImage)
  /-- Every address is plain read and write memory (R49). -/
  | flat
  deriving DecidableEq, Repr

/-- The configuration held fixed for a run (R7, R39), less `ppuRead` (below) and the host hook (Machine/HostPort.lean). -/
structure Config where
  /-- `MAP`, with `PRG` where the map has one. -/
  bus : BusMap
  /-- Whether `JMP ($xxFF)` takes its high byte from `$xx00` (R113, D6). -/
  jmpIndirectPageWrap : Bool
  /-- Where Reset reads the entry point (R301, D16). -/
  resetVector : Addr
  /-- Where the host Load places a program (R61, D17). -/
  loadAddress : Addr
  deriving DecidableEq, Repr

/-- The parameter `ppuRead` (R7, R45, D2): the byte the `n`-th draw of a run returns at a PPU-window address.
A FREE VALUE with no body: nothing constrains it, so a claim holds for every byte a PPU could return, independently
per read (`State.draws` numbers the reads). Log entry 5; safe. -/
opaque Config.ppuRead : Nat → Addr → Byte

end Sys2Proof
end

