-- ==== Sys2Proof/Syntax.lean ====
section
/-!
DEFINITION. The syntax of the instruction set: 56 mnemonics, 13 addressing modes (R71) and one constructor of `Instr`
for each of the 151 rows of spec/opcode_table.json (R74). A constructor carries its operand bytes, assembled as R72
says; `Instr.mnemonic` and `Instr.mode` name its row of the table. The step never reads these two: its decoder is the
table of Decode.lean.
-/

namespace Sys2Proof

/-- The 56 mnemonics of R74. -/
inductive Mnemonic where
  | adc | sbc | and | ora | eor | bit | asl | lsr
  | rol | ror | bcc | bcs | beq | bne | bmi | bpl
  | bvc | bvs | cmp | cpx | cpy | inc | dec | inx
  | iny | dex | dey | pha | php | pla | plp | jmp
  | jsr | rts | rti | tax | tay | tsx | txa | txs
  | tya | lda | ldx | ldy | sta | stx | sty | clc
  | cld | cli | clv | sec | sed | sei | brk | nop
  deriving DecidableEq, Repr

/-- An addressing mode with its operand bytes (R71, R72). -/
inductive Mode where
  /-- R104: no operand byte, no address. -/
  | implied
  /-- R105: the operand is A. -/
  | accumulator
  /-- R106: the operand is the next byte. -/
  | immediate (imm8 : Byte)
  /-- R107. -/
  | zeroPage (zp8 : Byte)
  /-- R108. -/
  | zeroPageX (zp8 : Byte)
  /-- R109. -/
  | zeroPageY (zp8 : Byte)
  /-- R110. -/
  | absolute (addr : Addr)
  /-- R111. -/
  | absoluteX (addr : Addr)
  /-- R112. -/
  | absoluteY (addr : Addr)
  /-- R113: JMP only. -/
  | indirect (ptr : Addr)
  /-- R114: `($zz,X)`. -/
  | indirectX (zp8 : Byte)
  /-- R115: `($zz),Y`. -/
  | indirectY (zp8 : Byte)
  /-- R116: a signed displacement. -/
  | relative (disp8 : Byte)
  deriving DecidableEq, Repr

/-- The 13 mode names of R71, without operand bytes. -/
inductive ModeName where
  | implied | accumulator | immediate | zeroPage | zeroPageX | zeroPageY | absolute | absoluteX | absoluteY
  | indirect | indirectX | indirectY | relative
  deriving DecidableEq, Repr

/-- The mode's name (R71). -/
def Mode.name : Mode → ModeName
  | .implied => .implied
  | .accumulator => .accumulator
  | .immediate _ => .immediate
  | .zeroPage _ => .zeroPage
  | .zeroPageX _ => .zeroPageX
  | .zeroPageY _ => .zeroPageY
  | .absolute _ => .absolute
  | .absoluteX _ => .absoluteX
  | .absoluteY _ => .absoluteY
  | .indirect _ => .indirect
  | .indirectX _ => .indirectX
  | .indirectY _ => .indirectY
  | .relative _ => .relative

/-- The length in bytes of an instruction of the mode, opcode byte included (R71). -/
def ModeName.length : ModeName → Nat
  | .implied | .accumulator => 1
  | .immediate | .zeroPage | .zeroPageX | .zeroPageY | .indirectX | .indirectY | .relative => 2
  | .absolute | .absoluteX | .absoluteY | .indirect => 3

/-- An instruction: one constructor per row of spec/opcode_table.json (R74). -/
inductive Instr where
  /-- `0x69` ADC #$nn -/
  | adcImmediate (imm : Byte)
  /-- `0x65` ADC $zz -/
  | adcZeroPage (zp : Byte)
  /-- `0x75` ADC $zz,X -/
  | adcZeroPageX (zp : Byte)
  /-- `0x6D` ADC $hhll -/
  | adcAbsolute (addr : Addr)
  /-- `0x7D` ADC $hhll,X -/
  | adcAbsoluteX (addr : Addr)
  /-- `0x79` ADC $hhll,Y -/
  | adcAbsoluteY (addr : Addr)
  /-- `0x61` ADC ($zz,X) -/
  | adcIndirectX (zp : Byte)
  /-- `0x71` ADC ($zz),Y -/
  | adcIndirectY (zp : Byte)
  /-- `0xE9` SBC #$nn -/
  | sbcImmediate (imm : Byte)
  /-- `0xE5` SBC $zz -/
  | sbcZeroPage (zp : Byte)
  /-- `0xF5` SBC $zz,X -/
  | sbcZeroPageX (zp : Byte)
  /-- `0xED` SBC $hhll -/
  | sbcAbsolute (addr : Addr)
  /-- `0xFD` SBC $hhll,X -/
  | sbcAbsoluteX (addr : Addr)
  /-- `0xF9` SBC $hhll,Y -/
  | sbcAbsoluteY (addr : Addr)
  /-- `0xE1` SBC ($zz,X) -/
  | sbcIndirectX (zp : Byte)
  /-- `0xF1` SBC ($zz),Y -/
  | sbcIndirectY (zp : Byte)
  /-- `0x29` AND #$nn -/
  | andImmediate (imm : Byte)
  /-- `0x25` AND $zz -/
  | andZeroPage (zp : Byte)
  /-- `0x35` AND $zz,X -/
  | andZeroPageX (zp : Byte)
  /-- `0x2D` AND $hhll -/
  | andAbsolute (addr : Addr)
  /-- `0x3D` AND $hhll,X -/
  | andAbsoluteX (addr : Addr)
  /-- `0x39` AND $hhll,Y -/
  | andAbsoluteY (addr : Addr)
  /-- `0x21` AND ($zz,X) -/
  | andIndirectX (zp : Byte)
  /-- `0x31` AND ($zz),Y -/
  | andIndirectY (zp : Byte)
  /-- `0x09` ORA #$nn -/
  | oraImmediate (imm : Byte)
  /-- `0x05` ORA $zz -/
  | oraZeroPage (zp : Byte)
  /-- `0x15` ORA $zz,X -/
  | oraZeroPageX (zp : Byte)
  /-- `0x0D` ORA $hhll -/
  | oraAbsolute (addr : Addr)
  /-- `0x1D` ORA $hhll,X -/
  | oraAbsoluteX (addr : Addr)
  /-- `0x19` ORA $hhll,Y -/
  | oraAbsoluteY (addr : Addr)
  /-- `0x01` ORA ($zz,X) -/
  | oraIndirectX (zp : Byte)
  /-- `0x11` ORA ($zz),Y -/
  | oraIndirectY (zp : Byte)
  /-- `0x49` EOR #$nn -/
  | eorImmediate (imm : Byte)
  /-- `0x45` EOR $zz -/
  | eorZeroPage (zp : Byte)
  /-- `0x55` EOR $zz,X -/
  | eorZeroPageX (zp : Byte)
  /-- `0x4D` EOR $hhll -/
  | eorAbsolute (addr : Addr)
  /-- `0x5D` EOR $hhll,X -/
  | eorAbsoluteX (addr : Addr)
  /-- `0x59` EOR $hhll,Y -/
  | eorAbsoluteY (addr : Addr)
  /-- `0x41` EOR ($zz,X) -/
  | eorIndirectX (zp : Byte)
  /-- `0x51` EOR ($zz),Y -/
  | eorIndirectY (zp : Byte)
  /-- `0x24` BIT $zz -/
  | bitZeroPage (zp : Byte)
  /-- `0x2C` BIT $hhll -/
  | bitAbsolute (addr : Addr)
  /-- `0x0A` ASL A -/
  | aslAccumulator
  /-- `0x06` ASL $zz -/
  | aslZeroPage (zp : Byte)
  /-- `0x16` ASL $zz,X -/
  | aslZeroPageX (zp : Byte)
  /-- `0x0E` ASL $hhll -/
  | aslAbsolute (addr : Addr)
  /-- `0x1E` ASL $hhll,X -/
  | aslAbsoluteX (addr : Addr)
  /-- `0x4A` LSR A -/
  | lsrAccumulator
  /-- `0x46` LSR $zz -/
  | lsrZeroPage (zp : Byte)
  /-- `0x56` LSR $zz,X -/
  | lsrZeroPageX (zp : Byte)
  /-- `0x4E` LSR $hhll -/
  | lsrAbsolute (addr : Addr)
  /-- `0x5E` LSR $hhll,X -/
  | lsrAbsoluteX (addr : Addr)
  /-- `0x2A` ROL A -/
  | rolAccumulator
  /-- `0x26` ROL $zz -/
  | rolZeroPage (zp : Byte)
  /-- `0x36` ROL $zz,X -/
  | rolZeroPageX (zp : Byte)
  /-- `0x2E` ROL $hhll -/
  | rolAbsolute (addr : Addr)
  /-- `0x3E` ROL $hhll,X -/
  | rolAbsoluteX (addr : Addr)
  /-- `0x6A` ROR A -/
  | rorAccumulator
  /-- `0x66` ROR $zz -/
  | rorZeroPage (zp : Byte)
  /-- `0x76` ROR $zz,X -/
  | rorZeroPageX (zp : Byte)
  /-- `0x6E` ROR $hhll -/
  | rorAbsolute (addr : Addr)
  /-- `0x7E` ROR $hhll,X -/
  | rorAbsoluteX (addr : Addr)
  /-- `0x90` BCC $target -/
  | bcc (disp : Byte)
  /-- `0xB0` BCS $target -/
  | bcs (disp : Byte)
  /-- `0xF0` BEQ $target -/
  | beq (disp : Byte)
  /-- `0xD0` BNE $target -/
  | bne (disp : Byte)
  /-- `0x30` BMI $target -/
  | bmi (disp : Byte)
  /-- `0x10` BPL $target -/
  | bpl (disp : Byte)
  /-- `0x50` BVC $target -/
  | bvc (disp : Byte)
  /-- `0x70` BVS $target -/
  | bvs (disp : Byte)
  /-- `0xC9` CMP #$nn -/
  | cmpImmediate (imm : Byte)
  /-- `0xC5` CMP $zz -/
  | cmpZeroPage (zp : Byte)
  /-- `0xD5` CMP $zz,X -/
  | cmpZeroPageX (zp : Byte)
  /-- `0xCD` CMP $hhll -/
  | cmpAbsolute (addr : Addr)
  /-- `0xDD` CMP $hhll,X -/
  | cmpAbsoluteX (addr : Addr)
  /-- `0xD9` CMP $hhll,Y -/
  | cmpAbsoluteY (addr : Addr)
  /-- `0xC1` CMP ($zz,X) -/
  | cmpIndirectX (zp : Byte)
  /-- `0xD1` CMP ($zz),Y -/
  | cmpIndirectY (zp : Byte)
  /-- `0xE0` CPX #$nn -/
  | cpxImmediate (imm : Byte)
  /-- `0xE4` CPX $zz -/
  | cpxZeroPage (zp : Byte)
  /-- `0xEC` CPX $hhll -/
  | cpxAbsolute (addr : Addr)
  /-- `0xC0` CPY #$nn -/
  | cpyImmediate (imm : Byte)
  /-- `0xC4` CPY $zz -/
  | cpyZeroPage (zp : Byte)
  /-- `0xCC` CPY $hhll -/
  | cpyAbsolute (addr : Addr)
  /-- `0xE6` INC $zz -/
  | incZeroPage (zp : Byte)
  /-- `0xF6` INC $zz,X -/
  | incZeroPageX (zp : Byte)
  /-- `0xEE` INC $hhll -/
  | incAbsolute (addr : Addr)
  /-- `0xFE` INC $hhll,X -/
  | incAbsoluteX (addr : Addr)
  /-- `0xC6` DEC $zz -/
  | decZeroPage (zp : Byte)
  /-- `0xD6` DEC $zz,X -/
  | decZeroPageX (zp : Byte)
  /-- `0xCE` DEC $hhll -/
  | decAbsolute (addr : Addr)
  /-- `0xDE` DEC $hhll,X -/
  | decAbsoluteX (addr : Addr)
  /-- `0xE8` INX -/
  | inx
  /-- `0xC8` INY -/
  | iny
  /-- `0xCA` DEX -/
  | dex
  /-- `0x88` DEY -/
  | dey
  /-- `0x48` PHA -/
  | pha
  /-- `0x08` PHP -/
  | php
  /-- `0x68` PLA -/
  | pla
  /-- `0x28` PLP -/
  | plp
  /-- `0x4C` JMP $hhll -/
  | jmpAbsolute (addr : Addr)
  /-- `0x6C` JMP ($hhll) -/
  | jmpIndirect (ptr : Addr)
  /-- `0x20` JSR $hhll -/
  | jsr (addr : Addr)
  /-- `0x60` RTS -/
  | rts
  /-- `0x40` RTI -/
  | rti
  /-- `0xAA` TAX -/
  | tax
  /-- `0xA8` TAY -/
  | tay
  /-- `0xBA` TSX -/
  | tsx
  /-- `0x8A` TXA -/
  | txa
  /-- `0x9A` TXS -/
  | txs
  /-- `0x98` TYA -/
  | tya
  /-- `0xA9` LDA #$nn -/
  | ldaImmediate (imm : Byte)
  /-- `0xA5` LDA $zz -/
  | ldaZeroPage (zp : Byte)
  /-- `0xB5` LDA $zz,X -/
  | ldaZeroPageX (zp : Byte)
  /-- `0xAD` LDA $hhll -/
  | ldaAbsolute (addr : Addr)
  /-- `0xBD` LDA $hhll,X -/
  | ldaAbsoluteX (addr : Addr)
  /-- `0xB9` LDA $hhll,Y -/
  | ldaAbsoluteY (addr : Addr)
  /-- `0xA1` LDA ($zz,X) -/
  | ldaIndirectX (zp : Byte)
  /-- `0xB1` LDA ($zz),Y -/
  | ldaIndirectY (zp : Byte)
  /-- `0xA2` LDX #$nn -/
  | ldxImmediate (imm : Byte)
  /-- `0xA6` LDX $zz -/
  | ldxZeroPage (zp : Byte)
  /-- `0xB6` LDX $zz,Y -/
  | ldxZeroPageY (zp : Byte)
  /-- `0xAE` LDX $hhll -/
  | ldxAbsolute (addr : Addr)
  /-- `0xBE` LDX $hhll,Y -/
  | ldxAbsoluteY (addr : Addr)
  /-- `0xA0` LDY #$nn -/
  | ldyImmediate (imm : Byte)
  /-- `0xA4` LDY $zz -/
  | ldyZeroPage (zp : Byte)
  /-- `0xB4` LDY $zz,X -/
  | ldyZeroPageX (zp : Byte)
  /-- `0xAC` LDY $hhll -/
  | ldyAbsolute (addr : Addr)
  /-- `0xBC` LDY $hhll,X -/
  | ldyAbsoluteX (addr : Addr)
  /-- `0x85` STA $zz -/
  | staZeroPage (zp : Byte)
  /-- `0x95` STA $zz,X -/
  | staZeroPageX (zp : Byte)
  /-- `0x8D` STA $hhll -/
  | staAbsolute (addr : Addr)
  /-- `0x9D` STA $hhll,X -/
  | staAbsoluteX (addr : Addr)
  /-- `0x99` STA $hhll,Y -/
  | staAbsoluteY (addr : Addr)
  /-- `0x81` STA ($zz,X) -/
  | staIndirectX (zp : Byte)
  /-- `0x91` STA ($zz),Y -/
  | staIndirectY (zp : Byte)
  /-- `0x86` STX $zz -/
  | stxZeroPage (zp : Byte)
  /-- `0x96` STX $zz,Y -/
  | stxZeroPageY (zp : Byte)
  /-- `0x8E` STX $hhll -/
  | stxAbsolute (addr : Addr)
  /-- `0x84` STY $zz -/
  | styZeroPage (zp : Byte)
  /-- `0x94` STY $zz,X -/
  | styZeroPageX (zp : Byte)
  /-- `0x8C` STY $hhll -/
  | styAbsolute (addr : Addr)
  /-- `0x18` CLC -/
  | clc
  /-- `0xD8` CLD -/
  | cld
  /-- `0x58` CLI -/
  | cli
  /-- `0xB8` CLV -/
  | clv
  /-- `0x38` SEC -/
  | sec
  /-- `0xF8` SED -/
  | sed
  /-- `0x78` SEI -/
  | sei
  /-- `0x00` BRK -/
  | brk
  /-- `0xEA` NOP -/
  | nop
  deriving DecidableEq, Repr

/-- The mnemonic of the instruction's row (R74). -/
def Instr.mnemonic : Instr → Mnemonic
  | .adcImmediate _ | .adcZeroPage _ | .adcZeroPageX _ | .adcAbsolute _ | .adcAbsoluteX _ | .adcAbsoluteY _ | .adcIndirectX _ | .adcIndirectY _ => .adc
  | .sbcImmediate _ | .sbcZeroPage _ | .sbcZeroPageX _ | .sbcAbsolute _ | .sbcAbsoluteX _ | .sbcAbsoluteY _ | .sbcIndirectX _ | .sbcIndirectY _ => .sbc
  | .andImmediate _ | .andZeroPage _ | .andZeroPageX _ | .andAbsolute _ | .andAbsoluteX _ | .andAbsoluteY _ | .andIndirectX _ | .andIndirectY _ => .and
  | .oraImmediate _ | .oraZeroPage _ | .oraZeroPageX _ | .oraAbsolute _ | .oraAbsoluteX _ | .oraAbsoluteY _ | .oraIndirectX _ | .oraIndirectY _ => .ora
  | .eorImmediate _ | .eorZeroPage _ | .eorZeroPageX _ | .eorAbsolute _ | .eorAbsoluteX _ | .eorAbsoluteY _ | .eorIndirectX _ | .eorIndirectY _ => .eor
  | .bitZeroPage _ | .bitAbsolute _ => .bit
  | .aslAccumulator | .aslZeroPage _ | .aslZeroPageX _ | .aslAbsolute _ | .aslAbsoluteX _ => .asl
  | .lsrAccumulator | .lsrZeroPage _ | .lsrZeroPageX _ | .lsrAbsolute _ | .lsrAbsoluteX _ => .lsr
  | .rolAccumulator | .rolZeroPage _ | .rolZeroPageX _ | .rolAbsolute _ | .rolAbsoluteX _ => .rol
  | .rorAccumulator | .rorZeroPage _ | .rorZeroPageX _ | .rorAbsolute _ | .rorAbsoluteX _ => .ror
  | .bcc _ => .bcc
  | .bcs _ => .bcs
  | .beq _ => .beq
  | .bne _ => .bne
  | .bmi _ => .bmi
  | .bpl _ => .bpl
  | .bvc _ => .bvc
  | .bvs _ => .bvs
  | .cmpImmediate _ | .cmpZeroPage _ | .cmpZeroPageX _ | .cmpAbsolute _ | .cmpAbsoluteX _ | .cmpAbsoluteY _ | .cmpIndirectX _ | .cmpIndirectY _ => .cmp
  | .cpxImmediate _ | .cpxZeroPage _ | .cpxAbsolute _ => .cpx
  | .cpyImmediate _ | .cpyZeroPage _ | .cpyAbsolute _ => .cpy
  | .incZeroPage _ | .incZeroPageX _ | .incAbsolute _ | .incAbsoluteX _ => .inc
  | .decZeroPage _ | .decZeroPageX _ | .decAbsolute _ | .decAbsoluteX _ => .dec
  | .inx => .inx
  | .iny => .iny
  | .dex => .dex
  | .dey => .dey
  | .pha => .pha
  | .php => .php
  | .pla => .pla
  | .plp => .plp
  | .jmpAbsolute _ | .jmpIndirect _ => .jmp
  | .jsr _ => .jsr
  | .rts => .rts
  | .rti => .rti
  | .tax => .tax
  | .tay => .tay
  | .tsx => .tsx
  | .txa => .txa
  | .txs => .txs
  | .tya => .tya
  | .ldaImmediate _ | .ldaZeroPage _ | .ldaZeroPageX _ | .ldaAbsolute _ | .ldaAbsoluteX _ | .ldaAbsoluteY _ | .ldaIndirectX _ | .ldaIndirectY _ => .lda
  | .ldxImmediate _ | .ldxZeroPage _ | .ldxZeroPageY _ | .ldxAbsolute _ | .ldxAbsoluteY _ => .ldx
  | .ldyImmediate _ | .ldyZeroPage _ | .ldyZeroPageX _ | .ldyAbsolute _ | .ldyAbsoluteX _ => .ldy
  | .staZeroPage _ | .staZeroPageX _ | .staAbsolute _ | .staAbsoluteX _ | .staAbsoluteY _ | .staIndirectX _ | .staIndirectY _ => .sta
  | .stxZeroPage _ | .stxZeroPageY _ | .stxAbsolute _ => .stx
  | .styZeroPage _ | .styZeroPageX _ | .styAbsolute _ => .sty
  | .clc => .clc
  | .cld => .cld
  | .cli => .cli
  | .clv => .clv
  | .sec => .sec
  | .sed => .sed
  | .sei => .sei
  | .brk => .brk
  | .nop => .nop

/-- The addressing mode of the instruction's row, with the operand bytes it carries (R74). -/
def Instr.mode : Instr → Mode
  | .inx | .iny | .dex | .dey | .pha | .php | .pla | .plp | .rts | .rti | .tax | .tay | .tsx | .txa | .txs
  | .tya | .clc | .cld | .cli | .clv | .sec | .sed | .sei | .brk | .nop => .implied
  | .aslAccumulator | .lsrAccumulator | .rolAccumulator | .rorAccumulator => .accumulator
  | .adcImmediate v | .sbcImmediate v | .andImmediate v | .oraImmediate v | .eorImmediate v | .cmpImmediate v
  | .cpxImmediate v | .cpyImmediate v | .ldaImmediate v | .ldxImmediate v | .ldyImmediate v => .immediate v
  | .adcZeroPage v | .sbcZeroPage v | .andZeroPage v | .oraZeroPage v | .eorZeroPage v | .bitZeroPage v
  | .aslZeroPage v | .lsrZeroPage v | .rolZeroPage v | .rorZeroPage v | .cmpZeroPage v | .cpxZeroPage v
  | .cpyZeroPage v | .incZeroPage v | .decZeroPage v | .ldaZeroPage v | .ldxZeroPage v | .ldyZeroPage v
  | .staZeroPage v | .stxZeroPage v | .styZeroPage v => .zeroPage v
  | .adcZeroPageX v | .sbcZeroPageX v | .andZeroPageX v | .oraZeroPageX v | .eorZeroPageX v | .aslZeroPageX v
  | .lsrZeroPageX v | .rolZeroPageX v | .rorZeroPageX v | .cmpZeroPageX v | .incZeroPageX v | .decZeroPageX v
  | .ldaZeroPageX v | .ldyZeroPageX v | .staZeroPageX v | .styZeroPageX v => .zeroPageX v
  | .ldxZeroPageY v | .stxZeroPageY v => .zeroPageY v
  | .adcAbsolute v | .sbcAbsolute v | .andAbsolute v | .oraAbsolute v | .eorAbsolute v | .bitAbsolute v
  | .aslAbsolute v | .lsrAbsolute v | .rolAbsolute v | .rorAbsolute v | .cmpAbsolute v | .cpxAbsolute v
  | .cpyAbsolute v | .incAbsolute v | .decAbsolute v | .jmpAbsolute v | .jsr v | .ldaAbsolute v
  | .ldxAbsolute v | .ldyAbsolute v | .staAbsolute v | .stxAbsolute v | .styAbsolute v => .absolute v
  | .adcAbsoluteX v | .sbcAbsoluteX v | .andAbsoluteX v | .oraAbsoluteX v | .eorAbsoluteX v | .aslAbsoluteX v
  | .lsrAbsoluteX v | .rolAbsoluteX v | .rorAbsoluteX v | .cmpAbsoluteX v | .incAbsoluteX v | .decAbsoluteX v
  | .ldaAbsoluteX v | .ldyAbsoluteX v | .staAbsoluteX v => .absoluteX v
  | .adcAbsoluteY v | .sbcAbsoluteY v | .andAbsoluteY v | .oraAbsoluteY v | .eorAbsoluteY v | .cmpAbsoluteY v
  | .ldaAbsoluteY v | .ldxAbsoluteY v | .staAbsoluteY v => .absoluteY v
  | .jmpIndirect v => .indirect v
  | .adcIndirectX v | .sbcIndirectX v | .andIndirectX v | .oraIndirectX v | .eorIndirectX v | .cmpIndirectX v
  | .ldaIndirectX v | .staIndirectX v => .indirectX v
  | .adcIndirectY v | .sbcIndirectY v | .andIndirectY v | .oraIndirectY v | .eorIndirectY v | .cmpIndirectY v
  | .ldaIndirectY v | .staIndirectY v => .indirectY v
  | .bcc v | .bcs v | .beq v | .bne v | .bmi v | .bpl v | .bvc v | .bvs v => .relative v

/-- The length in bytes of the instruction (R71). -/
def Instr.length (i : Instr) : Nat := i.mode.name.length

end Sys2Proof
end

