-- ==== Sys2Proof/WellFormed.lean ====
section
/-!
DEFINITION. Well-formedness checks. Every operand value is legal for every opcode (R77), so what can be ill formed is
a pairing of a mnemonic with a mode it does not have (R74), and a PRG image held out of its canonical form (R34).
-/

namespace Sys2Proof

/-- Whether the mnemonic has an opcode in the mode: the per-mnemonic list of R74. -/
def Mnemonic.admits : Mnemonic → ModeName → Bool
  | .adc, m | .sbc, m | .and, m | .ora, m | .eor, m | .cmp, m | .lda, m =>
    m ∈ [.immediate, .zeroPage, .zeroPageX, .absolute, .absoluteX, .absoluteY, .indirectX, .indirectY]
  | .sta, m => m ∈ [.zeroPage, .zeroPageX, .absolute, .absoluteX, .absoluteY, .indirectX, .indirectY]
  | .bit, m => m ∈ [.zeroPage, .absolute]
  | .asl, m | .lsr, m | .rol, m | .ror, m => m ∈ [.accumulator, .zeroPage, .zeroPageX, .absolute, .absoluteX]
  | .inc, m | .dec, m => m ∈ [.zeroPage, .zeroPageX, .absolute, .absoluteX]
  | .bcc, m | .bcs, m | .beq, m | .bne, m | .bmi, m | .bpl, m | .bvc, m | .bvs, m => m = .relative
  | .cpx, m | .cpy, m => m ∈ [.immediate, .zeroPage, .absolute]
  | .ldx, m => m ∈ [.immediate, .zeroPage, .zeroPageY, .absolute, .absoluteY]
  | .ldy, m => m ∈ [.immediate, .zeroPage, .zeroPageX, .absolute, .absoluteX]
  | .stx, m => m ∈ [.zeroPage, .zeroPageY, .absolute]
  | .sty, m => m ∈ [.zeroPage, .zeroPageX, .absolute]
  | .jmp, m => m ∈ [.absolute, .indirect]
  | .jsr, m => m = .absolute
  | .inx, m | .iny, m | .dex, m | .dey, m | .pha, m | .php, m | .pla, m | .plp, m | .rts, m | .rti, m
  | .tax, m | .tay, m | .tsx, m | .txa, m | .txs, m | .tya, m
  | .clc, m | .cld, m | .cli, m | .clv, m | .sec, m | .sed, m | .sei, m | .brk, m | .nop, m => m = .implied

/-- The instruction's mnemonic has its mode (R74). True of every `Instr`, whose operand types admit exactly the
legal operand bytes (R77). -/
def Instr.wellFormed (i : Instr) : Bool := i.mnemonic.admits i.mode.name

/-- The canonical form of sparse byte data below `bound`: keys strictly rising and below `bound`, no byte 0x00. -/
def canonicalCells (bound : Nat) : List (Nat × Byte) → Bool
  | [] => true
  | [c] => c.1 < bound && c.2 != 0
  | c :: d :: rest => c.1 < d.1 && c.2 != 0 && canonicalCells bound (d :: rest)

/-- The image holds no byte past its length and is in canonical form (R34, log entry 4). -/
def PrgImage.wf (p : PrgImage) : Bool := canonicalCells p.size.bytes p.cells

/-- The configuration can launch: its PRG image, where it has one, is in canonical form (D3). -/
def Config.wf (c : Config) : Bool :=
  match c.bus with
  | .famicom prg => prg.wf
  | .flat => true

end Sys2Proof
end

