-- ==== Sys2Proof/Decode.lean ====
section
/-!
DEFINITION. The decoder and the encoder (R70-R74, R76), and the assembler text of an instruction (R78).
Decoding has no prefix, no mode bit and no state (R73): the opcode byte alone selects the row of the table.
-/

namespace Sys2Proof

open Machine (wordOf lowByte highByte)

/-- How the bytes after an opcode make its instruction (R71, R72): none, one byte, or a little-endian word. -/
inductive OpcodeForm where
  | bare (i : Instr)
  | withByte (build : Byte → Instr)
  | withWord (build : Addr → Instr)

/-- An entry of the opcode map: the opcode byte and the instruction form it selects. -/
abbrev OpcodeRow := Byte × OpcodeForm

/-- Row 0x of the grid of R74. -/
def opcodeRows0 : List OpcodeRow := [
  (0x00, .bare .brk),
  (0x01, .withByte .oraIndirectX),
  (0x05, .withByte .oraZeroPage),
  (0x06, .withByte .aslZeroPage),
  (0x08, .bare .php),
  (0x09, .withByte .oraImmediate),
  (0x0A, .bare .aslAccumulator),
  (0x0D, .withWord .oraAbsolute),
  (0x0E, .withWord .aslAbsolute)]

/-- Row 1x of the grid of R74. -/
def opcodeRows1 : List OpcodeRow := [
  (0x10, .withByte .bpl),
  (0x11, .withByte .oraIndirectY),
  (0x15, .withByte .oraZeroPageX),
  (0x16, .withByte .aslZeroPageX),
  (0x18, .bare .clc),
  (0x19, .withWord .oraAbsoluteY),
  (0x1D, .withWord .oraAbsoluteX),
  (0x1E, .withWord .aslAbsoluteX)]

/-- Row 2x of the grid of R74. -/
def opcodeRows2 : List OpcodeRow := [
  (0x20, .withWord .jsr),
  (0x21, .withByte .andIndirectX),
  (0x24, .withByte .bitZeroPage),
  (0x25, .withByte .andZeroPage),
  (0x26, .withByte .rolZeroPage),
  (0x28, .bare .plp),
  (0x29, .withByte .andImmediate),
  (0x2A, .bare .rolAccumulator),
  (0x2C, .withWord .bitAbsolute),
  (0x2D, .withWord .andAbsolute),
  (0x2E, .withWord .rolAbsolute)]

/-- Row 3x of the grid of R74. -/
def opcodeRows3 : List OpcodeRow := [
  (0x30, .withByte .bmi),
  (0x31, .withByte .andIndirectY),
  (0x35, .withByte .andZeroPageX),
  (0x36, .withByte .rolZeroPageX),
  (0x38, .bare .sec),
  (0x39, .withWord .andAbsoluteY),
  (0x3D, .withWord .andAbsoluteX),
  (0x3E, .withWord .rolAbsoluteX)]

/-- Row 4x of the grid of R74. -/
def opcodeRows4 : List OpcodeRow := [
  (0x40, .bare .rti),
  (0x41, .withByte .eorIndirectX),
  (0x45, .withByte .eorZeroPage),
  (0x46, .withByte .lsrZeroPage),
  (0x48, .bare .pha),
  (0x49, .withByte .eorImmediate),
  (0x4A, .bare .lsrAccumulator),
  (0x4C, .withWord .jmpAbsolute),
  (0x4D, .withWord .eorAbsolute),
  (0x4E, .withWord .lsrAbsolute)]

/-- Row 5x of the grid of R74. -/
def opcodeRows5 : List OpcodeRow := [
  (0x50, .withByte .bvc),
  (0x51, .withByte .eorIndirectY),
  (0x55, .withByte .eorZeroPageX),
  (0x56, .withByte .lsrZeroPageX),
  (0x58, .bare .cli),
  (0x59, .withWord .eorAbsoluteY),
  (0x5D, .withWord .eorAbsoluteX),
  (0x5E, .withWord .lsrAbsoluteX)]

/-- Row 6x of the grid of R74. -/
def opcodeRows6 : List OpcodeRow := [
  (0x60, .bare .rts),
  (0x61, .withByte .adcIndirectX),
  (0x65, .withByte .adcZeroPage),
  (0x66, .withByte .rorZeroPage),
  (0x68, .bare .pla),
  (0x69, .withByte .adcImmediate),
  (0x6A, .bare .rorAccumulator),
  (0x6C, .withWord .jmpIndirect),
  (0x6D, .withWord .adcAbsolute),
  (0x6E, .withWord .rorAbsolute)]

/-- Row 7x of the grid of R74. -/
def opcodeRows7 : List OpcodeRow := [
  (0x70, .withByte .bvs),
  (0x71, .withByte .adcIndirectY),
  (0x75, .withByte .adcZeroPageX),
  (0x76, .withByte .rorZeroPageX),
  (0x78, .bare .sei),
  (0x79, .withWord .adcAbsoluteY),
  (0x7D, .withWord .adcAbsoluteX),
  (0x7E, .withWord .rorAbsoluteX)]

/-- Row 8x of the grid of R74. -/
def opcodeRows8 : List OpcodeRow := [
  (0x81, .withByte .staIndirectX),
  (0x84, .withByte .styZeroPage),
  (0x85, .withByte .staZeroPage),
  (0x86, .withByte .stxZeroPage),
  (0x88, .bare .dey),
  (0x8A, .bare .txa),
  (0x8C, .withWord .styAbsolute),
  (0x8D, .withWord .staAbsolute),
  (0x8E, .withWord .stxAbsolute)]

/-- Row 9x of the grid of R74. -/
def opcodeRows9 : List OpcodeRow := [
  (0x90, .withByte .bcc),
  (0x91, .withByte .staIndirectY),
  (0x94, .withByte .styZeroPageX),
  (0x95, .withByte .staZeroPageX),
  (0x96, .withByte .stxZeroPageY),
  (0x98, .bare .tya),
  (0x99, .withWord .staAbsoluteY),
  (0x9A, .bare .txs),
  (0x9D, .withWord .staAbsoluteX)]

/-- Row Ax of the grid of R74. -/
def opcodeRowsA : List OpcodeRow := [
  (0xA0, .withByte .ldyImmediate),
  (0xA1, .withByte .ldaIndirectX),
  (0xA2, .withByte .ldxImmediate),
  (0xA4, .withByte .ldyZeroPage),
  (0xA5, .withByte .ldaZeroPage),
  (0xA6, .withByte .ldxZeroPage),
  (0xA8, .bare .tay),
  (0xA9, .withByte .ldaImmediate),
  (0xAA, .bare .tax),
  (0xAC, .withWord .ldyAbsolute),
  (0xAD, .withWord .ldaAbsolute),
  (0xAE, .withWord .ldxAbsolute)]

/-- Row Bx of the grid of R74. -/
def opcodeRowsB : List OpcodeRow := [
  (0xB0, .withByte .bcs),
  (0xB1, .withByte .ldaIndirectY),
  (0xB4, .withByte .ldyZeroPageX),
  (0xB5, .withByte .ldaZeroPageX),
  (0xB6, .withByte .ldxZeroPageY),
  (0xB8, .bare .clv),
  (0xB9, .withWord .ldaAbsoluteY),
  (0xBA, .bare .tsx),
  (0xBC, .withWord .ldyAbsoluteX),
  (0xBD, .withWord .ldaAbsoluteX),
  (0xBE, .withWord .ldxAbsoluteY)]

/-- Row Cx of the grid of R74. -/
def opcodeRowsC : List OpcodeRow := [
  (0xC0, .withByte .cpyImmediate),
  (0xC1, .withByte .cmpIndirectX),
  (0xC4, .withByte .cpyZeroPage),
  (0xC5, .withByte .cmpZeroPage),
  (0xC6, .withByte .decZeroPage),
  (0xC8, .bare .iny),
  (0xC9, .withByte .cmpImmediate),
  (0xCA, .bare .dex),
  (0xCC, .withWord .cpyAbsolute),
  (0xCD, .withWord .cmpAbsolute),
  (0xCE, .withWord .decAbsolute)]

/-- Row Dx of the grid of R74. -/
def opcodeRowsD : List OpcodeRow := [
  (0xD0, .withByte .bne),
  (0xD1, .withByte .cmpIndirectY),
  (0xD5, .withByte .cmpZeroPageX),
  (0xD6, .withByte .decZeroPageX),
  (0xD8, .bare .cld),
  (0xD9, .withWord .cmpAbsoluteY),
  (0xDD, .withWord .cmpAbsoluteX),
  (0xDE, .withWord .decAbsoluteX)]

/-- Row Ex of the grid of R74. -/
def opcodeRowsE : List OpcodeRow := [
  (0xE0, .withByte .cpxImmediate),
  (0xE1, .withByte .sbcIndirectX),
  (0xE4, .withByte .cpxZeroPage),
  (0xE5, .withByte .sbcZeroPage),
  (0xE6, .withByte .incZeroPage),
  (0xE8, .bare .inx),
  (0xE9, .withByte .sbcImmediate),
  (0xEA, .bare .nop),
  (0xEC, .withWord .cpxAbsolute),
  (0xED, .withWord .sbcAbsolute),
  (0xEE, .withWord .incAbsolute)]

/-- Row Fx of the grid of R74. -/
def opcodeRowsF : List OpcodeRow := [
  (0xF0, .withByte .beq),
  (0xF1, .withByte .sbcIndirectY),
  (0xF5, .withByte .sbcZeroPageX),
  (0xF6, .withByte .incZeroPageX),
  (0xF8, .bare .sed),
  (0xF9, .withWord .sbcAbsoluteY),
  (0xFD, .withWord .sbcAbsoluteX),
  (0xFE, .withWord .incAbsoluteX)]

/-- The row of the grid with the high nibble (R74). -/
def gridRow : Nat → List OpcodeRow
  | 0 => opcodeRows0
  | 1 => opcodeRows1
  | 2 => opcodeRows2
  | 3 => opcodeRows3
  | 4 => opcodeRows4
  | 5 => opcodeRows5
  | 6 => opcodeRows6
  | 7 => opcodeRows7
  | 8 => opcodeRows8
  | 9 => opcodeRows9
  | 10 => opcodeRowsA
  | 11 => opcodeRowsB
  | 12 => opcodeRowsC
  | 13 => opcodeRowsD
  | 14 => opcodeRowsE
  | 15 => opcodeRowsF
  | _ => []

/-- The first entry with the opcode. -/
def findOpcode (op : Byte) : List OpcodeRow → Option OpcodeForm
  | [] => none
  | row :: rest => if row.1 = op then some row.2 else findOpcode op rest

/-- The form an opcode byte selects in the grid of R74; `none` for the 105 undefined values of R76. -/
def opcodeForm (op : Byte) : Option OpcodeForm := findOpcode op (gridRow (op.toNat / 16))

/-- Why bytes are no instruction. -/
inductive DecodeError where
  /-- No byte is given. -/
  | noBytes
  /-- The opcode is one of the 105 undefined values (R76). -/
  | undefinedOpcode (opcode : Byte)
  /-- Fewer bytes are given than the opcode's length (R71). -/
  | truncated (opcode : Byte)
  deriving DecidableEq, Repr

/-- The instruction at the head of a list of bytes and the bytes after it (R70-R73); total, rejecting by name. -/
def decode : List Byte → Except DecodeError (Instr × List Byte)
  | [] => .error .noBytes
  | op :: rest =>
    match opcodeForm op, rest with
    | none, _ => .error (.undefinedOpcode op)
    | some (.bare i), _ => .ok (i, rest)
    | some (.withByte build), op1 :: rest' => .ok (build op1, rest')
    | some (.withWord build), op1 :: op2 :: rest' => .ok (build (wordOf op2 op1), rest')
    | some _, _ => .error (.truncated op)

/-- The opcode byte of the instruction (R74). -/
def Instr.opcode : Instr → Byte
  | .adcImmediate _ => 0x69
  | .adcZeroPage _ => 0x65
  | .adcZeroPageX _ => 0x75
  | .adcAbsolute _ => 0x6D
  | .adcAbsoluteX _ => 0x7D
  | .adcAbsoluteY _ => 0x79
  | .adcIndirectX _ => 0x61
  | .adcIndirectY _ => 0x71
  | .sbcImmediate _ => 0xE9
  | .sbcZeroPage _ => 0xE5
  | .sbcZeroPageX _ => 0xF5
  | .sbcAbsolute _ => 0xED
  | .sbcAbsoluteX _ => 0xFD
  | .sbcAbsoluteY _ => 0xF9
  | .sbcIndirectX _ => 0xE1
  | .sbcIndirectY _ => 0xF1
  | .andImmediate _ => 0x29
  | .andZeroPage _ => 0x25
  | .andZeroPageX _ => 0x35
  | .andAbsolute _ => 0x2D
  | .andAbsoluteX _ => 0x3D
  | .andAbsoluteY _ => 0x39
  | .andIndirectX _ => 0x21
  | .andIndirectY _ => 0x31
  | .oraImmediate _ => 0x09
  | .oraZeroPage _ => 0x05
  | .oraZeroPageX _ => 0x15
  | .oraAbsolute _ => 0x0D
  | .oraAbsoluteX _ => 0x1D
  | .oraAbsoluteY _ => 0x19
  | .oraIndirectX _ => 0x01
  | .oraIndirectY _ => 0x11
  | .eorImmediate _ => 0x49
  | .eorZeroPage _ => 0x45
  | .eorZeroPageX _ => 0x55
  | .eorAbsolute _ => 0x4D
  | .eorAbsoluteX _ => 0x5D
  | .eorAbsoluteY _ => 0x59
  | .eorIndirectX _ => 0x41
  | .eorIndirectY _ => 0x51
  | .bitZeroPage _ => 0x24
  | .bitAbsolute _ => 0x2C
  | .aslAccumulator => 0x0A
  | .aslZeroPage _ => 0x06
  | .aslZeroPageX _ => 0x16
  | .aslAbsolute _ => 0x0E
  | .aslAbsoluteX _ => 0x1E
  | .lsrAccumulator => 0x4A
  | .lsrZeroPage _ => 0x46
  | .lsrZeroPageX _ => 0x56
  | .lsrAbsolute _ => 0x4E
  | .lsrAbsoluteX _ => 0x5E
  | .rolAccumulator => 0x2A
  | .rolZeroPage _ => 0x26
  | .rolZeroPageX _ => 0x36
  | .rolAbsolute _ => 0x2E
  | .rolAbsoluteX _ => 0x3E
  | .rorAccumulator => 0x6A
  | .rorZeroPage _ => 0x66
  | .rorZeroPageX _ => 0x76
  | .rorAbsolute _ => 0x6E
  | .rorAbsoluteX _ => 0x7E
  | .bcc _ => 0x90
  | .bcs _ => 0xB0
  | .beq _ => 0xF0
  | .bne _ => 0xD0
  | .bmi _ => 0x30
  | .bpl _ => 0x10
  | .bvc _ => 0x50
  | .bvs _ => 0x70
  | .cmpImmediate _ => 0xC9
  | .cmpZeroPage _ => 0xC5
  | .cmpZeroPageX _ => 0xD5
  | .cmpAbsolute _ => 0xCD
  | .cmpAbsoluteX _ => 0xDD
  | .cmpAbsoluteY _ => 0xD9
  | .cmpIndirectX _ => 0xC1
  | .cmpIndirectY _ => 0xD1
  | .cpxImmediate _ => 0xE0
  | .cpxZeroPage _ => 0xE4
  | .cpxAbsolute _ => 0xEC
  | .cpyImmediate _ => 0xC0
  | .cpyZeroPage _ => 0xC4
  | .cpyAbsolute _ => 0xCC
  | .incZeroPage _ => 0xE6
  | .incZeroPageX _ => 0xF6
  | .incAbsolute _ => 0xEE
  | .incAbsoluteX _ => 0xFE
  | .decZeroPage _ => 0xC6
  | .decZeroPageX _ => 0xD6
  | .decAbsolute _ => 0xCE
  | .decAbsoluteX _ => 0xDE
  | .inx => 0xE8
  | .iny => 0xC8
  | .dex => 0xCA
  | .dey => 0x88
  | .pha => 0x48
  | .php => 0x08
  | .pla => 0x68
  | .plp => 0x28
  | .jmpAbsolute _ => 0x4C
  | .jmpIndirect _ => 0x6C
  | .jsr _ => 0x20
  | .rts => 0x60
  | .rti => 0x40
  | .tax => 0xAA
  | .tay => 0xA8
  | .tsx => 0xBA
  | .txa => 0x8A
  | .txs => 0x9A
  | .tya => 0x98
  | .ldaImmediate _ => 0xA9
  | .ldaZeroPage _ => 0xA5
  | .ldaZeroPageX _ => 0xB5
  | .ldaAbsolute _ => 0xAD
  | .ldaAbsoluteX _ => 0xBD
  | .ldaAbsoluteY _ => 0xB9
  | .ldaIndirectX _ => 0xA1
  | .ldaIndirectY _ => 0xB1
  | .ldxImmediate _ => 0xA2
  | .ldxZeroPage _ => 0xA6
  | .ldxZeroPageY _ => 0xB6
  | .ldxAbsolute _ => 0xAE
  | .ldxAbsoluteY _ => 0xBE
  | .ldyImmediate _ => 0xA0
  | .ldyZeroPage _ => 0xA4
  | .ldyZeroPageX _ => 0xB4
  | .ldyAbsolute _ => 0xAC
  | .ldyAbsoluteX _ => 0xBC
  | .staZeroPage _ => 0x85
  | .staZeroPageX _ => 0x95
  | .staAbsolute _ => 0x8D
  | .staAbsoluteX _ => 0x9D
  | .staAbsoluteY _ => 0x99
  | .staIndirectX _ => 0x81
  | .staIndirectY _ => 0x91
  | .stxZeroPage _ => 0x86
  | .stxZeroPageY _ => 0x96
  | .stxAbsolute _ => 0x8E
  | .styZeroPage _ => 0x84
  | .styZeroPageX _ => 0x94
  | .styAbsolute _ => 0x8C
  | .clc => 0x18
  | .cld => 0xD8
  | .cli => 0x58
  | .clv => 0xB8
  | .sec => 0x38
  | .sed => 0xF8
  | .sei => 0x78
  | .brk => 0x00
  | .nop => 0xEA

/-- The operand bytes of a mode in the order they stand in memory, low byte first (R71, R72). -/
def Mode.operandBytes : Mode → List Byte
  | .implied | .accumulator => []
  | .immediate v | .zeroPage v | .zeroPageX v | .zeroPageY v | .indirectX v | .indirectY v | .relative v => [v]
  | .absolute w | .absoluteX w | .absoluteY w | .indirect w => [lowByte w, highByte w]

/-- The bytes of the instruction (R70). -/
def encode (i : Instr) : List Byte := i.opcode :: i.mode.operandBytes

/-- Byte `k` of an instruction numbered as spec/opcode_table.json numbers it, the bits above `nbits` zero. -/
def tableByte (nbits w k : Nat) : Byte := BitVec.ofNat 8 (w % 2 ^ nbits / 2 ^ (8 * k))

/-- The three bytes, enough for the longest instruction, of a table word: bit 0 is the least significant bit of the
first byte, the second byte is bits 15..8. -/
def tableBytes (nbits w : Nat) : List Byte := [tableByte nbits w 0, tableByte nbits w 1, tableByte nbits w 2]

/-- The instruction the decoder reads from a table word (`none` where it refuses). -/
def decodeTableWord (nbits w : Nat) : Option Instr :=
  match decode (tableBytes nbits w) with
  | .ok (i, _) => some i
  | .error _ => none

/-- A hexadecimal digit (R78). -/
def hexDigit (n : Nat) : Char := "0123456789ABCDEF".toList.getD n '0'

/-- The low `digits` hexadecimal digits of a number, most significant first. -/
def hexDigits : Nat → Nat → List Char
  | 0, _ => []
  | digits + 1, n => hexDigit (n / 16 ^ digits % 16) :: hexDigits digits n

/-- A `$`-prefixed byte (R78). -/
def asmByte (v : Byte) : List Char := '$' :: hexDigits 2 v.toNat

/-- A `$`-prefixed word (R78). -/
def asmWord (w : Addr) : List Char := '$' :: hexDigits 4 w.toNat

/-- The mnemonic in upper case (R78). -/
def Mnemonic.text : Mnemonic → String
  | .adc => "ADC" | .sbc => "SBC" | .and => "AND" | .ora => "ORA" | .eor => "EOR" | .bit => "BIT" | .asl => "ASL"
  | .lsr => "LSR" | .rol => "ROL" | .ror => "ROR" | .bcc => "BCC" | .bcs => "BCS" | .beq => "BEQ" | .bne => "BNE"
  | .bmi => "BMI" | .bpl => "BPL" | .bvc => "BVC" | .bvs => "BVS" | .cmp => "CMP" | .cpx => "CPX" | .cpy => "CPY"
  | .inc => "INC" | .dec => "DEC" | .inx => "INX" | .iny => "INY" | .dex => "DEX" | .dey => "DEY" | .pha => "PHA"
  | .php => "PHP" | .pla => "PLA" | .plp => "PLP" | .jmp => "JMP" | .jsr => "JSR" | .rts => "RTS" | .rti => "RTI"
  | .tax => "TAX" | .tay => "TAY" | .tsx => "TSX" | .txa => "TXA" | .txs => "TXS" | .tya => "TYA" | .lda => "LDA"
  | .ldx => "LDX" | .ldy => "LDY" | .sta => "STA" | .stx => "STX" | .sty => "STY" | .clc => "CLC" | .cld => "CLD"
  | .cli => "CLI" | .clv => "CLV" | .sec => "SEC" | .sed => "SED" | .sei => "SEI" | .brk => "BRK" | .nop => "NOP"

/-- The operand in the assembler syntax of its mode; a branch at `pc0` is written with its target (R78, R116). -/
def Mode.text (pc0 : Addr) : Mode → List Char
  | .implied => []
  | .accumulator => " A".toList
  | .immediate v => " #".toList ++ asmByte v
  | .zeroPage v => ' ' :: asmByte v
  | .zeroPageX v => ' ' :: asmByte v ++ ",X".toList
  | .zeroPageY v => ' ' :: asmByte v ++ ",Y".toList
  | .absolute w => ' ' :: asmWord w
  | .absoluteX w => ' ' :: asmWord w ++ ",X".toList
  | .absoluteY w => ' ' :: asmWord w ++ ",Y".toList
  | .indirect w => " (".toList ++ asmWord w ++ ")".toList
  | .indirectX v => " (".toList ++ asmByte v ++ ",X)".toList
  | .indirectY v => " (".toList ++ asmByte v ++ "),Y".toList
  | .relative v => ' ' :: asmWord (pc0 + 2 + Machine.sext16 v)

/-- The assembler text of the instruction at `pc0` (R78). -/
def Instr.text (pc0 : Addr) (i : Instr) : List Char := i.mnemonic.text.toList ++ i.mode.text pc0

end Sys2Proof
end

