-- ==== Sys2Proof/Machine/State.lean ====
section
/-!
DEFINITION. The state of the machine as plain data (R20-R39), the reasons a run halts (R35, R260-R264), the outcome
types of the host's interface, and the state right after reset (R301, R302).
-/

namespace Sys2Proof.Machine

/-- Sparse memory: the cells whose byte is not 0x00, addresses strictly rising. An unlisted address reads 0x00, the
value every cell of the backing store has at creation (R33, R300). -/
abbrev Memory := List Host.Cell

/-- A non-fatal bus event (R36, R45, R46). -/
inductive BusEvent where
  /-- A read of 0x4000-0x7FFF, which returned 0x00 (R46). -/
  | unmappedRead (addr : Addr)
  /-- A dropped write to 0x4000-0x7FFF (R46). -/
  | unmappedWrite (addr : Addr) (v : Byte)
  /-- A read of 0x2000-0x3FFF and the byte drawn (R45). -/
  | ppuRead (addr : Addr) (v : Byte)
  /-- A discarded write to 0x2000-0x3FFF (R45). -/
  | ppuWrite (addr : Addr) (v : Byte)
  deriving DecidableEq, Repr

/-- Why the core halted (R35). -/
inductive HaltReason where
  /-- The normal end of a run: BRK at `pc0` (R261). -/
  | brk (pc0 : Addr)
  /-- Fault: an undefined opcode was fetched at `pc0` (R262). -/
  | illegalOpcode (opcode : Byte) (pc0 : Addr)
  /-- Fault: a CPU write of `v` into the PRG window of the famicom map (R263). -/
  | romWrite (addr : Addr) (v : Byte)
  /-- Fault: the resolver was asked for the address of an Implied or Accumulator mode (R117, R264). -/
  | resolverSentinel (pc0 : Addr)
  deriving DecidableEq, Repr

/-- The run state (R35), and the span before the first Reset, in which no step is defined (R300, U9). -/
inductive RunState where
  /-- Created and not yet Reset (R300). That this span is a value of `run` is the model's way of holding it; DESIGN
  CHOICE (log entry 11), safe. -/
  | awaitingReset
  | running
  | halted (reason : HaltReason)
  deriving DecidableEq, Repr

/-- The complete state (R39): the register file, memory, run state and log, the configuration held fixed for the run,
and the model's own draw counter. -/
structure State where
  /-- The accumulator (R20). -/
  a : Byte
  /-- The index register X (R20). -/
  x : Byte
  /-- The index register Y (R20). -/
  y : Byte
  /-- The program counter (R21). -/
  pc : Addr
  /-- The stack pointer, an offset in page 1 (R22). -/
  sp : Byte
  /-- The status register, bits NV5BDIZC (R23). -/
  p : Byte
  /-- The backing store of 65536 cells (R33). -/
  mem : Memory
  /-- Running, or Halted with its reason (R35); before the first Reset, neither (R300). -/
  run : RunState
  /-- The bus events, oldest first (R36). -/
  log : List BusEvent
  /-- THE MODEL'S OWN: how many PPU-window reads have drawn a byte; DESIGN CHOICE (log entry 5), safe. -/
  draws : Nat
  /-- The configuration (R7, R34, R39); no step changes it. -/
  cfg : Config
  deriving DecidableEq, Repr

/-- Why a step stops the machine. The spec's own faults (R262-R264) are not here: the machine takes each of them, a
next state whose `run` is `Halted` with the fault (R260; log entry 1). -/
inductive Fault where
  /-- Raised by `step` alone, on a core that is already halted: no step is defined from `Halted` (R102). Safe. -/
  | coreHalted (reason : HaltReason)
  /-- Raised by `step` alone, on a core that has never been Reset: no step is defined before a Reset (R300, U9). Safe. -/
  | notReset
  deriving DecidableEq, Repr

/-- Why the model gives no meaning. -/
inductive Refusal where
  /-- Raised by an arm of `exec` whose instruction has no meaning yet; no arm is one now. Safe. -/
  | notModelled (mnemonic : String)
  deriving DecidableEq, Repr

/-- The outcome of a meaning or a step. -/
abbrev Result := Host.Outcome State Fault Refusal

/-- The configuration of `State.reset`: every parameter of R7 at its default. R7 gives `PRG` no default and requires
one; DESIGN CHOICE (log entry 3), unsafe: a 16 KB image of 0x00 bytes, which holds no program. -/
def resetConfig : Config :=
  { bus := .famicom { size := .bank16K, cells := [] }
    jmpIndirectPageWrap := false
    resetVector := 0xFFFC
    loadAddress := 0x0600 }

/-- The machine right after creation and Reset (R300-R302): registers and P zero, SP 0xFF, memory all 0x00, running,
nothing logged. PC is the word the reset vector holds, 0x0000 with the blank image of `resetConfig` (log entry 3);
Laws/HostPort.lean proves this state equal to the host's famicom launch of that image. -/
def State.reset : State :=
  { a := 0x00, x := 0x00, y := 0x00, pc := 0x0000, sp := 0xFF, p := 0x00
    mem := [], run := .running, log := [], draws := 0, cfg := resetConfig }

end Sys2Proof.Machine
end

