-- ==== Sys2Proof/Machine/Flags.lean ====
section
/-!
DEFINITION. The status register's flags (R23, R32), the Zero and Negative helper (R120), and every ALU computation
with the flags it writes (R140, R141, R153, R160-R163, R180). These are functions of bytes: an operation takes the
status byte and gives the new one.
-/

namespace Sys2Proof.Machine

/-- The seven flags of P (R23). Bit 5 is a stored bit with no name of its own (R29). -/
inductive Flag where
  | c | z | i | d | b | v | n
  deriving DecidableEq, Repr

/-- The mask of a flag (R32). -/
def Flag.mask : Flag → Byte
  | .c => 0x01
  | .z => 0x02
  | .i => 0x04
  | .d => 0x08
  | .b => 0x10
  | .v => 0x40
  | .n => 0x80

/-- `get(F)` (R32). -/
def getFlag (p : Byte) (f : Flag) : Bool := p &&& f.mask = f.mask

/-- `set(F, b)` (R32). -/
def setFlag (p : Byte) (f : Flag) (b : Bool) : Byte := if b then p ||| f.mask else p &&& ~~~ f.mask

/-- `setZN(v)` on the status byte (R120): Z iff `v` is 0, N iff bit 7 of `v`. -/
def setZN (p v : Byte) : Byte := setFlag (setFlag p .z (v = 0x00)) .n (v &&& 0x80 = 0x80)

/-- The carry as a number, 1 or 0. -/
def carryNat (c : Bool) : Nat := if c then 1 else 0

/-- What an 8-bit addition gives: the result byte, the carry out and the overflow. -/
structure SumResult where
  value : Byte
  carry : Bool
  overflow : Bool
  deriving DecidableEq, Repr

/-- `A + M + C` (R140): the sum's low byte, C iff the sum is over 0xFF, V iff A and M share a sign the result lacks. -/
def addWithCarry (a m : Byte) (c : Bool) : SumResult :=
  let sum := a.toNat + m.toNat + carryNat c
  let r : Byte := BitVec.ofNat 8 sum
  { value := r, carry := sum > 0xFF, overflow := (a ^^^ r) &&& (m ^^^ r) &&& 0x80 = 0x80 }

/-- `A - M - (1 - C)` (R141): the addition of the operand's bitwise inverse. -/
def subWithBorrow (a m : Byte) (c : Bool) : SumResult := addWithCarry a (m ^^^ 0xFF) c

/-- The status byte after ADC or SBC (R140, R141): C, V, Z, N. D is not read (R27). -/
def sumStatus (p : Byte) (r : SumResult) : Byte := setZN (setFlag (setFlag p .c r.carry) .v r.overflow) r.value

/-- The status byte after BIT (R153): Z from `A & M`, N and V from bits 7 and 6 of M. -/
def bitStatus (p a m : Byte) : Byte :=
  setFlag (setFlag (setFlag p .z (a &&& m = 0x00)) .n (m.getLsbD 7)) .v (m.getLsbD 6)

/-- The status byte after `Compare(R, M)` (R180): C iff R >= M unsigned, Z iff equal, N bit 7 of the difference. -/
def compareStatus (p r m : Byte) : Byte :=
  setFlag (setFlag (setFlag p .c (m ≤ r)) .z (r = m)) .n ((r - m).getLsbD 7)

/-- A shift's status byte: C is the bit shifted out, Z and N come from the result. -/
def shiftStatus (p : Byte) (out : Bool) (r : Byte) : Byte := setZN (setFlag p .c out) r

/-- ASL (R160): the result and the status byte, from the operand and the status byte. -/
def aslOf (m p : Byte) : Byte × Byte :=
  let r := m <<< 1
  (r, shiftStatus p (m.getLsbD 7) r)

/-- LSR (R161). -/
def lsrOf (m p : Byte) : Byte × Byte :=
  let r := m >>> 1
  (r, shiftStatus p (m.getLsbD 0) r)

/-- ROL (R162): the old carry enters at bit 0. -/
def rolOf (m p : Byte) : Byte × Byte :=
  let r := (m <<< 1) ||| (if getFlag p .c then 0x01 else 0x00)
  (r, shiftStatus p (m.getLsbD 7) r)

/-- ROR (R163): the old carry enters at bit 7. -/
def rorOf (m p : Byte) : Byte × Byte :=
  let r := (m >>> 1) ||| (if getFlag p .c then 0x80 else 0x00)
  (r, shiftStatus p (m.getLsbD 0) r)

/-- INC (R184): modulo 256, Z and N only. -/
def incOf (m p : Byte) : Byte × Byte := (m + 1, setZN p (m + 1))

/-- DEC (R185): modulo 256, Z and N only. -/
def decOf (m p : Byte) : Byte × Byte := (m - 1, setZN p (m - 1))

end Sys2Proof.Machine
end

