-- ==== Sys2Proof/Machine/Ops.lean ====
section
/-!
DEFINITION. The named operations over registers, memory and the bus: field updates, the sparse memory, the bus decoder
(R41-R49), the access primitives (R50, R51), the stack (R56), and how a step ends (R260, R261, R267). This core has no
trap entry (R270): what it has in its place is halting, by BRK or by a fault, and `raise` and `haltBrk` are those two
operations. The return from an interrupt frame, RTI (R271), is an ordinary instruction over `pop`.
-/

namespace Sys2Proof.Machine

/-! ### Field updates -/

/-- `A <- v`. -/
def State.setA (s : State) (v : Byte) : State := { s with a := v }

/-- `X <- v`. -/
def State.setX (s : State) (v : Byte) : State := { s with x := v }

/-- `Y <- v`. -/
def State.setY (s : State) (v : Byte) : State := { s with y := v }

/-- `PC <- v`. -/
def State.setPc (s : State) (v : Addr) : State := { s with pc := v }

/-- `SP <- v`. -/
def State.setSp (s : State) (v : Byte) : State := { s with sp := v }

/-- `P <- v`, the whole byte. -/
def State.setP (s : State) (v : Byte) : State := { s with p := v }

/-- The backing store replaced. -/
def State.setMem (s : State) (m : Memory) : State := { s with mem := m }

/-- `run <- r`. -/
def State.setRun (s : State) (r : RunState) : State := { s with run := r }

/-- `log e` (R36): the event goes to the end of the log. -/
def State.logEvent (s : State) (e : BusEvent) : State := { s with log := s.log ++ [e] }

/-- One more draw has been made (R45, log entry 5). -/
def State.countDraw (s : State) : State := { s with draws := s.draws + 1 }

/-- The configuration replaced: the host's launches alone do this. -/
def State.setCfg (s : State) (c : Config) : State := { s with cfg := c }

/-! ### Sparse memory -/

/-- The canonical form of memory: addresses strictly rising and below 65536, no 0x00 entry. -/
def Memory.wf (m : Memory) : Bool := canonicalCells 65536 m

/-- The byte at `n`; an unlisted address reads 0x00 (R33, R300). -/
def Memory.read (m : Memory) (n : Nat) : Byte :=
  match m with
  | [] => 0x00
  | c :: rest => if c.1 = n then c.2 else Memory.read rest n

/-- The memory without an entry for `n`. -/
def Memory.erase (m : Memory) (n : Nat) : Memory :=
  match m with
  | [] => []
  | c :: rest => if c.1 = n then Memory.erase rest n else c :: Memory.erase rest n

/-- The memory with the entry `(n, v)` at its place in the rising order. -/
def Memory.insert (m : Memory) (n : Nat) (v : Byte) : Memory :=
  match m with
  | [] => [(n, v)]
  | c :: rest =>
    if n < c.1 then (n, v) :: c :: rest
    else if n = c.1 then (n, v) :: rest
    else c :: Memory.insert rest n v

/-- `mem[n] <- v`, keeping the canonical form: writing 0x00 removes the entry. -/
def Memory.write (m : Memory) (n : Nat) (v : Byte) : Memory :=
  if v = 0x00 then Memory.erase m n else Memory.insert m n v

/-! ### The bus -/

/-- The four classes of the famicom decoder (R41). -/
inductive BusClass where
  | ram
  | ppu
  | unmapped
  | prg
  deriving DecidableEq, Repr

/-- The class of an address (R41-R43). -/
def busClass (addr : Addr) : BusClass :=
  if addr ≤ 0x1FFF then .ram
  else if addr ≤ 0x3FFF then .ppu
  else if addr ≤ 0x7FFF then .unmapped
  else .prg

/-- The 11-bit RAM index (R44). -/
def ramIndex (addr : Addr) : Nat := (addr &&& 0x07FF).toNat

/-- The offset in the image that an address of the PRG window reads (R47). -/
def prgOffset (prg : PrgImage) (addr : Addr) : Nat :=
  match prg.size with
  | .bank16K => ((addr - 0x8000) &&& 0x3FFF).toNat
  | .bank32K => (addr - 0x8000).toNat

/-- `PRG[offset]` (R34). -/
def prgByte (prg : PrgImage) (offset : Nat) : Byte := Memory.read prg.cells offset

/-- `BusRead(addr)` (R42, R49): the byte and the state with the read's event and draw. A read never faults. -/
def busRead (s : State) (addr : Addr) : Byte × State :=
  match s.cfg.bus with
  | .flat => (Memory.read s.mem addr.toNat, s)
  | .famicom prg =>
    match busClass addr with
    | .ram => (Memory.read s.mem (ramIndex addr), s)
    | .ppu => (Config.ppuRead s.draws addr, (s.logEvent (.ppuRead addr (Config.ppuRead s.draws addr))).countDraw)
    | .unmapped => (0x00, s.logEvent (.unmappedRead addr))
    | .prg => (prgByte prg (prgOffset prg addr), s)

/-- `BusWrite(addr, v)` (R43, R49): the state written, or the fault the write raises (R48). -/
def busWrite (s : State) (addr : Addr) (v : Byte) : Except HaltReason State :=
  match s.cfg.bus with
  | .flat => .ok (s.setMem (Memory.write s.mem addr.toNat v))
  | .famicom _ =>
    match busClass addr with
    | .ram => .ok (s.setMem (Memory.write s.mem (ramIndex addr) v))
    | .ppu => .ok (s.logEvent (.ppuWrite addr v))
    | .unmapped => .ok (s.logEvent (.unmappedWrite addr v))
    | .prg => .error (.romWrite addr v)

/-- The cell of the backing store that an address reaches for reading and writing, where it reaches one (R33, R44,
R49): every address in the flat map, the RAM window through its mirror in the famicom map. -/
def cellOf (c : Config) (addr : Addr) : Option Nat :=
  match c.bus with
  | .flat => some addr.toNat
  | .famicom _ => if busClass addr = .ram then some (ramIndex addr) else none

/-- `MemRead` of two bytes at the given low-byte and high-byte addresses, low byte first (R50, R52). -/
def readWordAt (s : State) (lowAddr highAddr : Addr) : Addr × State :=
  let lo := busRead s lowAddr
  let hi := busRead lo.2 highAddr
  (wordOf hi.1 lo.1, hi.2)

/-- `MemRead(addr, 2)` (R50): the second address wraps from 0xFFFF to 0x0000. -/
def memRead2 (s : State) (addr : Addr) : Addr × State := readWordAt s addr (addr + 1)

/-- A 16-bit pointer read inside page 0: the high byte's address wraps in the page (R114, R115). -/
def readZeroPagePointer (s : State) (ptr : Byte) : Addr × State := readWordAt s (zext16 ptr) (zext16 (ptr + 1))

/-- `MemWrite(addr, 2, v)` (R51): low byte, then high byte; the host's Load and hook use it, no instruction does. -/
def memWrite2 (s : State) (addr : Addr) (v : Addr) : Except HaltReason State :=
  match busWrite s addr (lowByte v) with
  | .error e => .error e
  | .ok s1 => busWrite s1 (addr + 1) (highByte v)

/-! ### The stack -/

/-- The address the stack pointer names, `0x0100 + SP` (R22). -/
def stackAddr (sp : Byte) : Addr := wordOf 0x01 sp

/-- `Push(v)` (R56): write at `0x0100 + SP`, then decrement SP modulo 256. -/
def push (s : State) (v : Byte) : Except HaltReason State :=
  match busWrite s (stackAddr s.sp) v with
  | .error e => .error e
  | .ok s1 => .ok (s1.setSp (s1.sp - 1))

/-- `Pop()` (R56): increment SP modulo 256, then read at `0x0100 + SP`. -/
def pop (s : State) : Byte × State := busRead (s.setSp (s.sp + 1)) (stackAddr (s.sp + 1))

/-! ### How a step ends -/

/-- Whether the reason is a fault and not the normal end (R260, R261). -/
def HaltReason.isFault : HaltReason → Bool
  | .brk _ => false
  | .illegalOpcode .. | .romWrite .. | .resolverSentinel _ => true

/-- `raise F` (R101, R260, R267): every effect since `start` is discarded and `run` becomes Halted with the fault.
`now` is the state at the raise; only its draw counter is kept, so that no later draw repeats one already made
(DESIGN CHOICE, log entry 6; safe). -/
def raise (start now : State) (e : HaltReason) : State := { start with run := .halted e, draws := now.draws }

/-- `halt Brk(pc0)` (R261). -/
def haltBrk (s : State) (pc0 : Addr) : State := s.setRun (.halted (.brk pc0))

/-- The atomic end of a step (R101): when the meaning's state halted by a fault, everything the whole step did, the
fetch's own events too, is discarded; else the state stands. `start` is the state before the fetch. -/
def settle (start : State) (t : State) : State :=
  match t.run with
  | .halted e => if e.isFault then raise start t e else t
  | .running => t
  | .awaitingReset => t

/-! ### Placing bytes where the machine will read them (the host's part) -/

/-- The state with byte `v` where a read of `addr` finds it: a cell of memory or a byte of the PRG image (R44, R47,
R49). `none` where no read returns a stored byte (R45, R46). -/
def placeByte (s : State) (addr : Addr) (v : Byte) : Option State :=
  match s.cfg.bus with
  | .flat => some (s.setMem (Memory.write s.mem addr.toNat v))
  | .famicom prg =>
    match busClass addr with
    | .ram => some (s.setMem (Memory.write s.mem (ramIndex addr) v))
    | .ppu => none
    | .unmapped => none
    | .prg =>
      some (s.setCfg { s.cfg with bus := .famicom { prg with cells := Memory.write prg.cells (prgOffset prg addr) v } })

/-- The bytes placed at `addr` and the addresses after it (modulo 65536), where all of them can be. -/
def placeBytes (s : State) (addr : Addr) : List Byte → Option State
  | [] => some s
  | v :: rest =>
    match placeByte s addr v with
    | none => none
    | some s1 => placeBytes s1 (addr + 1) rest

/-- The bytes placed where the next step fetches its instruction, the core running. Where PC stands in a window that
stores nothing, PC is first moved to 0x0000, which is RAM in both maps (log entry 7). -/
def placeNextInstr (s : State) (bytes : List Byte) : State :=
  let r := s.setRun .running
  match placeBytes r r.pc bytes with
  | some t => t
  | none => (placeBytes (r.setPc 0x0000) 0x0000 bytes).getD r

end Sys2Proof.Machine
end

