-- ==== Sys2Proof/Machine/Operands.lean ====
section
/-!
DEFINITION. The addressing-mode resolver (R104-R117), reading and writing an operand (R118, R119), and the four shapes
of meaning every instruction is one of (R122): implied, reading, storing, and read-modify-write.

A meaning is given the state with PC at the instruction's own opcode byte, `pc0`, after its bytes have been fetched
(log entry 10). It leaves PC at `pc0 + len` unless it transfers control (R103).
-/

namespace Sys2Proof.Machine

/-- `EA(mode)` (R104-R117): the effective address and the state after the pointer reads, or the resolver's fault. -/
def resolve (m : Mode) (s : State) : Except HaltReason (Addr × State) :=
  match m with
  | .implied | .accumulator => .error (.resolverSentinel s.pc)
  | .immediate _ => .ok (s.pc + 1, s)
  | .zeroPage zp => .ok (zext16 zp, s)
  | .zeroPageX zp => .ok (zext16 (zp + s.x), s)
  | .zeroPageY zp => .ok (zext16 (zp + s.y), s)
  | .absolute addr => .ok (addr, s)
  | .absoluteX addr => .ok (addr + zext16 s.x, s)
  | .absoluteY addr => .ok (addr + zext16 s.y, s)
  | .indirect ptr =>
    .ok (readWordAt s ptr (if s.cfg.jmpIndirectPageWrap && lowByte ptr = 0xFF then ptr &&& 0xFF00 else ptr + 1))
  | .indirectX zp => .ok (readZeroPagePointer s (zp + s.x))
  | .indirectY zp =>
    let base := readZeroPagePointer s zp
    .ok (base.1 + zext16 base.2.y, base.2)
  | .relative disp => .ok (s.pc + 2 + sext16 disp, s)

/-- Where an operand stands (R105, R106, R118, R119). -/
inductive Place where
  /-- The accumulator. -/
  | accumulator
  /-- The operand byte of an immediate at its own address, already fetched. -/
  | fetched (addr : Addr) (v : Byte)
  /-- The byte at an address. -/
  | cell (addr : Addr)
  deriving DecidableEq, Repr

/-- The operand's place, found by the step's one call of the resolver (R119), and the state after it. -/
def locate (m : Mode) (s : State) : Except HaltReason (Place × State) :=
  match m, resolve m s with
  | .accumulator, _ => .ok (.accumulator, s)
  | _, .error e => .error e
  | .immediate v, .ok r => .ok (.fetched r.1 v, r.2)
  | _, .ok r => .ok (.cell r.1, r.2)

/-- `Operand(mode)` at its place (R118). An immediate's byte was read by the fetch and is not read again
(DEDUCED, log entry 8). -/
def readPlace (pl : Place) (s : State) : Byte × State :=
  match pl with
  | .accumulator => (s.a, s)
  | .fetched _ v => (v, s)
  | .cell addr => busRead s addr

/-- `StoreOperand(mode, v)` at the operand's place (R119). -/
def writePlace (pl : Place) (v : Byte) (s : State) : Except HaltReason State :=
  match pl with
  | .accumulator => .ok (s.setA v)
  | .fetched addr _ => busWrite s addr v
  | .cell addr => busWrite s addr v

/-- `PC <- (pc0 + len) mod 65536` (R103), from a state with PC at `pc0`. -/
def State.advance (s : State) (n : ModeName) : State := s.setPc (s.pc + BitVec.ofNat 16 n.length)

/-- An instruction that names its operands itself (R104): PC advances by one and `f` acts. -/
def impliedForm (s : State) (f : State → State) : Result := .next (f (s.advance .implied))

/-- An instruction that reads its operand and writes only registers and flags: `use` is given the operand. -/
def readForm (m : Mode) (s : State) (use : Byte → State → State) : Result :=
  match locate m s with
  | .error e => .next (raise s s e)
  | .ok (pl, s1) => .next (use (readPlace pl s1).1 ((readPlace pl s1).2.advance m.name))

/-- An instruction that writes `v` to its operand without reading it (R229-R231). -/
def storeForm (m : Mode) (s : State) (v : Byte) : Result :=
  match locate m s with
  | .error e => .next (raise s s e)
  | .ok (pl, s1) =>
    match writePlace pl v (s1.advance m.name) with
    | .error e => .next (raise s s1 e)
    | .ok s2 => .next s2

/-- A read-modify-write instruction (R119): one read, one write at the same place, no dummy write. `f` gives the new
byte and the new status byte from the operand and the status byte. -/
def modifyForm (m : Mode) (s : State) (f : Byte → Byte → Byte × Byte) : Result :=
  match locate m s with
  | .error e => .next (raise s s e)
  | .ok (pl, s1) =>
    let rd := readPlace pl s1
    let out := f rd.1 rd.2.p
    match writePlace pl out.1 (rd.2.advance m.name) with
    | .error e => .next (raise s rd.2 e)
    | .ok s2 => .next (s2.setP out.2)

/-- A control transfer to the resolved address (R116, R210): PC ends at the target when `taken`, else past the
instruction. -/
def jumpForm (m : Mode) (s : State) (taken : Bool) : Result :=
  match resolve m s with
  | .error e => .next (raise s s e)
  | .ok (ea, s1) => .next (if taken then s1.setPc ea else s1.advance m.name)

end Sys2Proof.Machine
end

