-- ==== Sys2Proof/Machine/Arithmetic.lean ====
section
/-!
DEFINITION. The two arithmetic instructions (R140, R141), always binary: D is not read (R27, D12).
-/

namespace Sys2Proof.Machine

/-- ADC (R140): `A + M + C` into A; C, V, Z, N. -/
def addToA (m : Mode) (s : State) : Result :=
  readForm m s fun v t =>
    let r := addWithCarry t.a v (getFlag t.p .c)
    (t.setA r.value).setP (sumStatus t.p r)

/-- ADC #$nn, opcode 0x69: R140, mode R106. -/
def execAdcImmediate (imm : Byte) (s : State) : Result := addToA (.immediate imm) s

/-- ADC $zz, opcode 0x65: R140, mode R107. -/
def execAdcZeroPage (zp : Byte) (s : State) : Result := addToA (.zeroPage zp) s

/-- ADC $zz,X, opcode 0x75: R140, mode R108. -/
def execAdcZeroPageX (zp : Byte) (s : State) : Result := addToA (.zeroPageX zp) s

/-- ADC $hhll, opcode 0x6D: R140, mode R110. -/
def execAdcAbsolute (addr : Addr) (s : State) : Result := addToA (.absolute addr) s

/-- ADC $hhll,X, opcode 0x7D: R140, mode R111. -/
def execAdcAbsoluteX (addr : Addr) (s : State) : Result := addToA (.absoluteX addr) s

/-- ADC $hhll,Y, opcode 0x79: R140, mode R112. -/
def execAdcAbsoluteY (addr : Addr) (s : State) : Result := addToA (.absoluteY addr) s

/-- ADC ($zz,X), opcode 0x61: R140, mode R114. -/
def execAdcIndirectX (zp : Byte) (s : State) : Result := addToA (.indirectX zp) s

/-- ADC ($zz),Y, opcode 0x71: R140, mode R115. -/
def execAdcIndirectY (zp : Byte) (s : State) : Result := addToA (.indirectY zp) s

/-- SBC (R141): `A - M - (1 - C)` into A; C, V, Z, N. -/
def subFromA (m : Mode) (s : State) : Result :=
  readForm m s fun v t =>
    let r := subWithBorrow t.a v (getFlag t.p .c)
    (t.setA r.value).setP (sumStatus t.p r)

/-- SBC #$nn, opcode 0xE9: R141, mode R106. -/
def execSbcImmediate (imm : Byte) (s : State) : Result := subFromA (.immediate imm) s

/-- SBC $zz, opcode 0xE5: R141, mode R107. -/
def execSbcZeroPage (zp : Byte) (s : State) : Result := subFromA (.zeroPage zp) s

/-- SBC $zz,X, opcode 0xF5: R141, mode R108. -/
def execSbcZeroPageX (zp : Byte) (s : State) : Result := subFromA (.zeroPageX zp) s

/-- SBC $hhll, opcode 0xED: R141, mode R110. -/
def execSbcAbsolute (addr : Addr) (s : State) : Result := subFromA (.absolute addr) s

/-- SBC $hhll,X, opcode 0xFD: R141, mode R111. -/
def execSbcAbsoluteX (addr : Addr) (s : State) : Result := subFromA (.absoluteX addr) s

/-- SBC $hhll,Y, opcode 0xF9: R141, mode R112. -/
def execSbcAbsoluteY (addr : Addr) (s : State) : Result := subFromA (.absoluteY addr) s

/-- SBC ($zz,X), opcode 0xE1: R141, mode R114. -/
def execSbcIndirectX (zp : Byte) (s : State) : Result := subFromA (.indirectX zp) s

/-- SBC ($zz),Y, opcode 0xF1: R141, mode R115. -/
def execSbcIndirectY (zp : Byte) (s : State) : Result := subFromA (.indirectY zp) s

end Sys2Proof.Machine
end

