-- ==== Sys2Proof/Machine/Branch.lean ====
section
/-!
DEFINITION. The eight conditional branches (R170-R178): the target is resolved whether or not it is taken (R116).
-/

namespace Sys2Proof.Machine

/-- BCC $target, opcode 0x90: R171, mode R116. -/
def execBcc (disp : Byte) (s : State) : Result := jumpForm (.relative disp) s (!getFlag s.p .c)

/-- BCS $target, opcode 0xB0: R172, mode R116. -/
def execBcs (disp : Byte) (s : State) : Result := jumpForm (.relative disp) s (getFlag s.p .c)

/-- BEQ $target, opcode 0xF0: R173, mode R116. -/
def execBeq (disp : Byte) (s : State) : Result := jumpForm (.relative disp) s (getFlag s.p .z)

/-- BNE $target, opcode 0xD0: R174, mode R116. -/
def execBne (disp : Byte) (s : State) : Result := jumpForm (.relative disp) s (!getFlag s.p .z)

/-- BMI $target, opcode 0x30: R175, mode R116. -/
def execBmi (disp : Byte) (s : State) : Result := jumpForm (.relative disp) s (getFlag s.p .n)

/-- BPL $target, opcode 0x10: R176, mode R116. -/
def execBpl (disp : Byte) (s : State) : Result := jumpForm (.relative disp) s (!getFlag s.p .n)

/-- BVC $target, opcode 0x50: R177, mode R116. -/
def execBvc (disp : Byte) (s : State) : Result := jumpForm (.relative disp) s (!getFlag s.p .v)

/-- BVS $target, opcode 0x70: R178, mode R116. -/
def execBvs (disp : Byte) (s : State) : Result := jumpForm (.relative disp) s (getFlag s.p .v)

end Sys2Proof.Machine
end

