-- ==== Sys2Proof/Machine/CompareStep.lean ====
section
/-!
DEFINITION. Compares, increments and decrements (R180-R189).
-/

namespace Sys2Proof.Machine

/-- CMP, CPX, CPY (R180-R183): the register value `r` against the operand; only C, Z and N are written. -/
def compareWith (r : Byte) (m : Mode) (s : State) : Result :=
  readForm m s fun v t => t.setP (compareStatus t.p r v)

/-- CMP #$nn, opcode 0xC9: R181, mode R106. -/
def execCmpImmediate (imm : Byte) (s : State) : Result := compareWith s.a (.immediate imm) s

/-- CMP $zz, opcode 0xC5: R181, mode R107. -/
def execCmpZeroPage (zp : Byte) (s : State) : Result := compareWith s.a (.zeroPage zp) s

/-- CMP $zz,X, opcode 0xD5: R181, mode R108. -/
def execCmpZeroPageX (zp : Byte) (s : State) : Result := compareWith s.a (.zeroPageX zp) s

/-- CMP $hhll, opcode 0xCD: R181, mode R110. -/
def execCmpAbsolute (addr : Addr) (s : State) : Result := compareWith s.a (.absolute addr) s

/-- CMP $hhll,X, opcode 0xDD: R181, mode R111. -/
def execCmpAbsoluteX (addr : Addr) (s : State) : Result := compareWith s.a (.absoluteX addr) s

/-- CMP $hhll,Y, opcode 0xD9: R181, mode R112. -/
def execCmpAbsoluteY (addr : Addr) (s : State) : Result := compareWith s.a (.absoluteY addr) s

/-- CMP ($zz,X), opcode 0xC1: R181, mode R114. -/
def execCmpIndirectX (zp : Byte) (s : State) : Result := compareWith s.a (.indirectX zp) s

/-- CMP ($zz),Y, opcode 0xD1: R181, mode R115. -/
def execCmpIndirectY (zp : Byte) (s : State) : Result := compareWith s.a (.indirectY zp) s

/-- CPX #$nn, opcode 0xE0: R182, mode R106. -/
def execCpxImmediate (imm : Byte) (s : State) : Result := compareWith s.x (.immediate imm) s

/-- CPX $zz, opcode 0xE4: R182, mode R107. -/
def execCpxZeroPage (zp : Byte) (s : State) : Result := compareWith s.x (.zeroPage zp) s

/-- CPX $hhll, opcode 0xEC: R182, mode R110. -/
def execCpxAbsolute (addr : Addr) (s : State) : Result := compareWith s.x (.absolute addr) s

/-- CPY #$nn, opcode 0xC0: R183, mode R106. -/
def execCpyImmediate (imm : Byte) (s : State) : Result := compareWith s.y (.immediate imm) s

/-- CPY $zz, opcode 0xC4: R183, mode R107. -/
def execCpyZeroPage (zp : Byte) (s : State) : Result := compareWith s.y (.zeroPage zp) s

/-- CPY $hhll, opcode 0xCC: R183, mode R110. -/
def execCpyAbsolute (addr : Addr) (s : State) : Result := compareWith s.y (.absolute addr) s

/-- INC $zz, opcode 0xE6: R184, mode R107. -/
def execIncZeroPage (zp : Byte) (s : State) : Result := modifyForm (.zeroPage zp) s incOf

/-- INC $zz,X, opcode 0xF6: R184, mode R108. -/
def execIncZeroPageX (zp : Byte) (s : State) : Result := modifyForm (.zeroPageX zp) s incOf

/-- INC $hhll, opcode 0xEE: R184, mode R110. -/
def execIncAbsolute (addr : Addr) (s : State) : Result := modifyForm (.absolute addr) s incOf

/-- INC $hhll,X, opcode 0xFE: R184, mode R111. -/
def execIncAbsoluteX (addr : Addr) (s : State) : Result := modifyForm (.absoluteX addr) s incOf

/-- DEC $zz, opcode 0xC6: R185, mode R107. -/
def execDecZeroPage (zp : Byte) (s : State) : Result := modifyForm (.zeroPage zp) s decOf

/-- DEC $zz,X, opcode 0xD6: R185, mode R108. -/
def execDecZeroPageX (zp : Byte) (s : State) : Result := modifyForm (.zeroPageX zp) s decOf

/-- DEC $hhll, opcode 0xCE: R185, mode R110. -/
def execDecAbsolute (addr : Addr) (s : State) : Result := modifyForm (.absolute addr) s decOf

/-- DEC $hhll,X, opcode 0xDE: R185, mode R111. -/
def execDecAbsoluteX (addr : Addr) (s : State) : Result := modifyForm (.absoluteX addr) s decOf

/-- INX, opcode 0xE8: R186, mode R104. -/
def execInx (s : State) : Result :=
  impliedForm s fun t => (t.setX (t.x + 1)).setP (setZN t.p (t.x + 1))

/-- INY, opcode 0xC8: R187, mode R104. -/
def execIny (s : State) : Result :=
  impliedForm s fun t => (t.setY (t.y + 1)).setP (setZN t.p (t.y + 1))

/-- DEX, opcode 0xCA: R188, mode R104. -/
def execDex (s : State) : Result :=
  impliedForm s fun t => (t.setX (t.x - 1)).setP (setZN t.p (t.x - 1))

/-- DEY, opcode 0x88: R189, mode R104. -/
def execDey (s : State) : Result :=
  impliedForm s fun t => (t.setY (t.y - 1)).setP (setZN t.p (t.y - 1))

end Sys2Proof.Machine
end

