-- ==== Sys2Proof/Machine/FlagSystem.lean ====
section
/-!
DEFINITION. Flag instructions (R240-R246), BRK (R247) and NOP (R248). BRK pushes nothing, writes no flag and vectors nowhere (D14).
-/

namespace Sys2Proof.Machine

/-- A flag instruction (R240-R246): exactly one flag is written. -/
def writeFlag (s : State) (f : Flag) (b : Bool) : Result := impliedForm s fun t => t.setP (setFlag t.p f b)

/-- CLC, opcode 0x18: R240, mode R104. -/
def execClc (s : State) : Result := writeFlag s .c false

/-- CLD, opcode 0xD8: R241, mode R104. -/
def execCld (s : State) : Result := writeFlag s .d false

/-- CLI, opcode 0x58: R242, mode R104. -/
def execCli (s : State) : Result := writeFlag s .i false

/-- CLV, opcode 0xB8: R243, mode R104. -/
def execClv (s : State) : Result := writeFlag s .v false

/-- SEC, opcode 0x38: R244, mode R104. -/
def execSec (s : State) : Result := writeFlag s .c true

/-- SED, opcode 0xF8: R245, mode R104. -/
def execSed (s : State) : Result := writeFlag s .d true

/-- SEI, opcode 0x78: R246, mode R104. -/
def execSei (s : State) : Result := writeFlag s .i true

/-- BRK, opcode 0x00: R247, mode R104. -/
def execBrk (s : State) : Result :=
  impliedForm s fun t => haltBrk t s.pc

/-- NOP, opcode 0xEA: R248, mode R104. -/
def execNop (s : State) : Result := impliedForm s id

end Sys2Proof.Machine
end

