-- ==== Sys2Proof/Machine/Jump.lean ====
section
/-!
DEFINITION. Jumps, calls and returns (R210-R213).
-/

namespace Sys2Proof.Machine

/-- JMP $hhll, opcode 0x4C: R210, mode R110. -/
def execJmpAbsolute (addr : Addr) (s : State) : Result := jumpForm (.absolute addr) s true

/-- JMP ($hhll), opcode 0x6C: R210, mode R113. -/
def execJmpIndirect (ptr : Addr) (s : State) : Result := jumpForm (.indirect ptr) s true

/-- JSR (R211): the target is resolved, then `pc0 + 2` is pushed, high byte first, then PC takes the target. -/
def callForm (m : Mode) (s : State) : Result :=
  match resolve m s with
  | .error e => .next (raise s s e)
  | .ok (ea, s1) =>
    match push s1 (highByte (s.pc + 2)) with
    | .error e => .next (raise s s1 e)
    | .ok s2 =>
      match push s2 (lowByte (s.pc + 2)) with
      | .error e => .next (raise s s2 e)
      | .ok s3 => .next (s3.setPc ea)

/-- JSR $hhll, opcode 0x20: R211, mode R110. -/
def execJsr (addr : Addr) (s : State) : Result := callForm (.absolute addr) s

/-- The word popped low byte first, and the state after both pops (R212, R213). -/
def popWord (s : State) : Addr × State :=
  let lo := pop s
  let hi := pop lo.2
  (wordOf hi.1 lo.1, hi.2)

/-- RTS, opcode 0x60: R212, mode R104. -/
def execRts (s : State) : Result :=
  let r := popWord s
  .next (r.2.setPc (r.1 + 1))

/-- RTI, opcode 0x40: R213, mode R104. -/
def execRti (s : State) : Result :=
  let st := pop s
  let r := popWord (st.2.setP st.1)
  .next (r.2.setPc r.1)

end Sys2Proof.Machine
end

