-- ==== Sys2Proof/Machine/Logical.lean ====
section
/-!
DEFINITION. The bitwise instructions on A and one operand (R150-R153).
-/

namespace Sys2Proof.Machine

/-- AND, ORA, EOR (R150-R152): A combined with the operand; Z, N. -/
def combineA (f : Byte → Byte → Byte) (m : Mode) (s : State) : Result :=
  readForm m s fun v t => (t.setA (f t.a v)).setP (setZN t.p (f t.a v))

/-- AND #$nn, opcode 0x29: R150, mode R106. -/
def execAndImmediate (imm : Byte) (s : State) : Result := combineA (· &&& ·) (.immediate imm) s

/-- AND $zz, opcode 0x25: R150, mode R107. -/
def execAndZeroPage (zp : Byte) (s : State) : Result := combineA (· &&& ·) (.zeroPage zp) s

/-- AND $zz,X, opcode 0x35: R150, mode R108. -/
def execAndZeroPageX (zp : Byte) (s : State) : Result := combineA (· &&& ·) (.zeroPageX zp) s

/-- AND $hhll, opcode 0x2D: R150, mode R110. -/
def execAndAbsolute (addr : Addr) (s : State) : Result := combineA (· &&& ·) (.absolute addr) s

/-- AND $hhll,X, opcode 0x3D: R150, mode R111. -/
def execAndAbsoluteX (addr : Addr) (s : State) : Result := combineA (· &&& ·) (.absoluteX addr) s

/-- AND $hhll,Y, opcode 0x39: R150, mode R112. -/
def execAndAbsoluteY (addr : Addr) (s : State) : Result := combineA (· &&& ·) (.absoluteY addr) s

/-- AND ($zz,X), opcode 0x21: R150, mode R114. -/
def execAndIndirectX (zp : Byte) (s : State) : Result := combineA (· &&& ·) (.indirectX zp) s

/-- AND ($zz),Y, opcode 0x31: R150, mode R115. -/
def execAndIndirectY (zp : Byte) (s : State) : Result := combineA (· &&& ·) (.indirectY zp) s

/-- ORA #$nn, opcode 0x09: R151, mode R106. -/
def execOraImmediate (imm : Byte) (s : State) : Result := combineA (· ||| ·) (.immediate imm) s

/-- ORA $zz, opcode 0x05: R151, mode R107. -/
def execOraZeroPage (zp : Byte) (s : State) : Result := combineA (· ||| ·) (.zeroPage zp) s

/-- ORA $zz,X, opcode 0x15: R151, mode R108. -/
def execOraZeroPageX (zp : Byte) (s : State) : Result := combineA (· ||| ·) (.zeroPageX zp) s

/-- ORA $hhll, opcode 0x0D: R151, mode R110. -/
def execOraAbsolute (addr : Addr) (s : State) : Result := combineA (· ||| ·) (.absolute addr) s

/-- ORA $hhll,X, opcode 0x1D: R151, mode R111. -/
def execOraAbsoluteX (addr : Addr) (s : State) : Result := combineA (· ||| ·) (.absoluteX addr) s

/-- ORA $hhll,Y, opcode 0x19: R151, mode R112. -/
def execOraAbsoluteY (addr : Addr) (s : State) : Result := combineA (· ||| ·) (.absoluteY addr) s

/-- ORA ($zz,X), opcode 0x01: R151, mode R114. -/
def execOraIndirectX (zp : Byte) (s : State) : Result := combineA (· ||| ·) (.indirectX zp) s

/-- ORA ($zz),Y, opcode 0x11: R151, mode R115. -/
def execOraIndirectY (zp : Byte) (s : State) : Result := combineA (· ||| ·) (.indirectY zp) s

/-- EOR #$nn, opcode 0x49: R152, mode R106. -/
def execEorImmediate (imm : Byte) (s : State) : Result := combineA (· ^^^ ·) (.immediate imm) s

/-- EOR $zz, opcode 0x45: R152, mode R107. -/
def execEorZeroPage (zp : Byte) (s : State) : Result := combineA (· ^^^ ·) (.zeroPage zp) s

/-- EOR $zz,X, opcode 0x55: R152, mode R108. -/
def execEorZeroPageX (zp : Byte) (s : State) : Result := combineA (· ^^^ ·) (.zeroPageX zp) s

/-- EOR $hhll, opcode 0x4D: R152, mode R110. -/
def execEorAbsolute (addr : Addr) (s : State) : Result := combineA (· ^^^ ·) (.absolute addr) s

/-- EOR $hhll,X, opcode 0x5D: R152, mode R111. -/
def execEorAbsoluteX (addr : Addr) (s : State) : Result := combineA (· ^^^ ·) (.absoluteX addr) s

/-- EOR $hhll,Y, opcode 0x59: R152, mode R112. -/
def execEorAbsoluteY (addr : Addr) (s : State) : Result := combineA (· ^^^ ·) (.absoluteY addr) s

/-- EOR ($zz,X), opcode 0x41: R152, mode R114. -/
def execEorIndirectX (zp : Byte) (s : State) : Result := combineA (· ^^^ ·) (.indirectX zp) s

/-- EOR ($zz),Y, opcode 0x51: R152, mode R115. -/
def execEorIndirectY (zp : Byte) (s : State) : Result := combineA (· ^^^ ·) (.indirectY zp) s

/-- BIT (R153): only Z, N and V are written. -/
def testBits (m : Mode) (s : State) : Result :=
  readForm m s fun v t => t.setP (bitStatus t.p t.a v)

/-- BIT $zz, opcode 0x24: R153, mode R107. -/
def execBitZeroPage (zp : Byte) (s : State) : Result := testBits (.zeroPage zp) s

/-- BIT $hhll, opcode 0x2C: R153, mode R110. -/
def execBitAbsolute (addr : Addr) (s : State) : Result := testBits (.absolute addr) s

end Sys2Proof.Machine
end

