-- ==== Sys2Proof/Machine/Shift.lean ====
section
/-!
DEFINITION. Shifts and rotates by one bit through the carry (R160-R163), on A or on one memory cell.
-/

namespace Sys2Proof.Machine

/-- ASL A, opcode 0x0A: R160, mode R105. -/
def execAslAccumulator (s : State) : Result := modifyForm .accumulator s aslOf

/-- ASL $zz, opcode 0x06: R160, mode R107. -/
def execAslZeroPage (zp : Byte) (s : State) : Result := modifyForm (.zeroPage zp) s aslOf

/-- ASL $zz,X, opcode 0x16: R160, mode R108. -/
def execAslZeroPageX (zp : Byte) (s : State) : Result := modifyForm (.zeroPageX zp) s aslOf

/-- ASL $hhll, opcode 0x0E: R160, mode R110. -/
def execAslAbsolute (addr : Addr) (s : State) : Result := modifyForm (.absolute addr) s aslOf

/-- ASL $hhll,X, opcode 0x1E: R160, mode R111. -/
def execAslAbsoluteX (addr : Addr) (s : State) : Result := modifyForm (.absoluteX addr) s aslOf

/-- LSR A, opcode 0x4A: R161, mode R105. -/
def execLsrAccumulator (s : State) : Result := modifyForm .accumulator s lsrOf

/-- LSR $zz, opcode 0x46: R161, mode R107. -/
def execLsrZeroPage (zp : Byte) (s : State) : Result := modifyForm (.zeroPage zp) s lsrOf

/-- LSR $zz,X, opcode 0x56: R161, mode R108. -/
def execLsrZeroPageX (zp : Byte) (s : State) : Result := modifyForm (.zeroPageX zp) s lsrOf

/-- LSR $hhll, opcode 0x4E: R161, mode R110. -/
def execLsrAbsolute (addr : Addr) (s : State) : Result := modifyForm (.absolute addr) s lsrOf

/-- LSR $hhll,X, opcode 0x5E: R161, mode R111. -/
def execLsrAbsoluteX (addr : Addr) (s : State) : Result := modifyForm (.absoluteX addr) s lsrOf

/-- ROL A, opcode 0x2A: R162, mode R105. -/
def execRolAccumulator (s : State) : Result := modifyForm .accumulator s rolOf

/-- ROL $zz, opcode 0x26: R162, mode R107. -/
def execRolZeroPage (zp : Byte) (s : State) : Result := modifyForm (.zeroPage zp) s rolOf

/-- ROL $zz,X, opcode 0x36: R162, mode R108. -/
def execRolZeroPageX (zp : Byte) (s : State) : Result := modifyForm (.zeroPageX zp) s rolOf

/-- ROL $hhll, opcode 0x2E: R162, mode R110. -/
def execRolAbsolute (addr : Addr) (s : State) : Result := modifyForm (.absolute addr) s rolOf

/-- ROL $hhll,X, opcode 0x3E: R162, mode R111. -/
def execRolAbsoluteX (addr : Addr) (s : State) : Result := modifyForm (.absoluteX addr) s rolOf

/-- ROR A, opcode 0x6A: R163, mode R105. -/
def execRorAccumulator (s : State) : Result := modifyForm .accumulator s rorOf

/-- ROR $zz, opcode 0x66: R163, mode R107. -/
def execRorZeroPage (zp : Byte) (s : State) : Result := modifyForm (.zeroPage zp) s rorOf

/-- ROR $zz,X, opcode 0x76: R163, mode R108. -/
def execRorZeroPageX (zp : Byte) (s : State) : Result := modifyForm (.zeroPageX zp) s rorOf

/-- ROR $hhll, opcode 0x6E: R163, mode R110. -/
def execRorAbsolute (addr : Addr) (s : State) : Result := modifyForm (.absolute addr) s rorOf

/-- ROR $hhll,X, opcode 0x7E: R163, mode R111. -/
def execRorAbsoluteX (addr : Addr) (s : State) : Result := modifyForm (.absoluteX addr) s rorOf

end Sys2Proof.Machine
end

