-- ==== Sys2Proof/Machine/Stack.lean ====
section
/-!
DEFINITION. Pushes and pulls of A and P (R200-R203). P moves raw, all eight bits (D11).
-/

namespace Sys2Proof.Machine

/-- PHA, PHP (R200, R201): push `v`. -/
def pushForm (s : State) (v : Byte) : Result :=
  match push (s.advance .implied) v with
  | .error e => .next (raise s s e)
  | .ok t => .next t

/-- PLA, PLP (R202, R203): pop a byte and use it. -/
def pullForm (s : State) (use : Byte → State → State) : Result :=
  let r := pop (s.advance .implied)
  .next (use r.1 r.2)

/-- PHA, opcode 0x48: R200, mode R104. -/
def execPha (s : State) : Result := pushForm s s.a

/-- PHP, opcode 0x08: R201, mode R104. -/
def execPhp (s : State) : Result := pushForm s s.p

/-- PLA, opcode 0x68: R202, mode R104. -/
def execPla (s : State) : Result :=
  pullForm s fun v t => (t.setA v).setP (setZN t.p v)

/-- PLP, opcode 0x28: R203, mode R104. -/
def execPlp (s : State) : Result :=
  pullForm s fun v t => t.setP v

end Sys2Proof.Machine
end

