-- ==== Sys2Proof/Machine/Transfer.lean ====
section
/-!
DEFINITION. Register transfers (R220-R225), loads (R226-R228) and stores (R229-R231).
-/

namespace Sys2Proof.Machine

/-- A transfer into A: A takes `v`; Z, N. -/
def transferA (s : State) (v : Byte) : Result := impliedForm s fun t => (t.setA v).setP (setZN t.p v)

/-- A transfer into X: X takes `v`; Z, N. -/
def transferX (s : State) (v : Byte) : Result := impliedForm s fun t => (t.setX v).setP (setZN t.p v)

/-- A transfer into Y: Y takes `v`; Z, N. -/
def transferY (s : State) (v : Byte) : Result := impliedForm s fun t => (t.setY v).setP (setZN t.p v)

/-- TAX, opcode 0xAA: R220, mode R104. -/
def execTax (s : State) : Result := transferX s s.a

/-- TAY, opcode 0xA8: R221, mode R104. -/
def execTay (s : State) : Result := transferY s s.a

/-- TSX, opcode 0xBA: R222, mode R104. -/
def execTsx (s : State) : Result := transferX s s.sp

/-- TXA, opcode 0x8A: R223, mode R104. -/
def execTxa (s : State) : Result := transferA s s.x

/-- TXS, opcode 0x9A: R224, mode R104. -/
def execTxs (s : State) : Result := impliedForm s fun t => t.setSp t.x

/-- TYA, opcode 0x98: R225, mode R104. -/
def execTya (s : State) : Result := transferA s s.y

/-- LDA (R226): A takes the operand; Z, N. -/
def loadA (m : Mode) (s : State) : Result := readForm m s fun v t => (t.setA v).setP (setZN t.p v)

/-- LDA #$nn, opcode 0xA9: R226, mode R106. -/
def execLdaImmediate (imm : Byte) (s : State) : Result := loadA (.immediate imm) s

/-- LDA $zz, opcode 0xA5: R226, mode R107. -/
def execLdaZeroPage (zp : Byte) (s : State) : Result := loadA (.zeroPage zp) s

/-- LDA $zz,X, opcode 0xB5: R226, mode R108. -/
def execLdaZeroPageX (zp : Byte) (s : State) : Result := loadA (.zeroPageX zp) s

/-- LDA $hhll, opcode 0xAD: R226, mode R110. -/
def execLdaAbsolute (addr : Addr) (s : State) : Result := loadA (.absolute addr) s

/-- LDA $hhll,X, opcode 0xBD: R226, mode R111. -/
def execLdaAbsoluteX (addr : Addr) (s : State) : Result := loadA (.absoluteX addr) s

/-- LDA $hhll,Y, opcode 0xB9: R226, mode R112. -/
def execLdaAbsoluteY (addr : Addr) (s : State) : Result := loadA (.absoluteY addr) s

/-- LDA ($zz,X), opcode 0xA1: R226, mode R114. -/
def execLdaIndirectX (zp : Byte) (s : State) : Result := loadA (.indirectX zp) s

/-- LDA ($zz),Y, opcode 0xB1: R226, mode R115. -/
def execLdaIndirectY (zp : Byte) (s : State) : Result := loadA (.indirectY zp) s

/-- LDX (R227): X takes the operand; Z, N. -/
def loadX (m : Mode) (s : State) : Result := readForm m s fun v t => (t.setX v).setP (setZN t.p v)

/-- LDX #$nn, opcode 0xA2: R227, mode R106. -/
def execLdxImmediate (imm : Byte) (s : State) : Result := loadX (.immediate imm) s

/-- LDX $zz, opcode 0xA6: R227, mode R107. -/
def execLdxZeroPage (zp : Byte) (s : State) : Result := loadX (.zeroPage zp) s

/-- LDX $zz,Y, opcode 0xB6: R227, mode R109. -/
def execLdxZeroPageY (zp : Byte) (s : State) : Result := loadX (.zeroPageY zp) s

/-- LDX $hhll, opcode 0xAE: R227, mode R110. -/
def execLdxAbsolute (addr : Addr) (s : State) : Result := loadX (.absolute addr) s

/-- LDX $hhll,Y, opcode 0xBE: R227, mode R112. -/
def execLdxAbsoluteY (addr : Addr) (s : State) : Result := loadX (.absoluteY addr) s

/-- LDY (R228): Y takes the operand; Z, N. -/
def loadY (m : Mode) (s : State) : Result := readForm m s fun v t => (t.setY v).setP (setZN t.p v)

/-- LDY #$nn, opcode 0xA0: R228, mode R106. -/
def execLdyImmediate (imm : Byte) (s : State) : Result := loadY (.immediate imm) s

/-- LDY $zz, opcode 0xA4: R228, mode R107. -/
def execLdyZeroPage (zp : Byte) (s : State) : Result := loadY (.zeroPage zp) s

/-- LDY $zz,X, opcode 0xB4: R228, mode R108. -/
def execLdyZeroPageX (zp : Byte) (s : State) : Result := loadY (.zeroPageX zp) s

/-- LDY $hhll, opcode 0xAC: R228, mode R110. -/
def execLdyAbsolute (addr : Addr) (s : State) : Result := loadY (.absolute addr) s

/-- LDY $hhll,X, opcode 0xBC: R228, mode R111. -/
def execLdyAbsoluteX (addr : Addr) (s : State) : Result := loadY (.absoluteX addr) s

/-- STA $zz, opcode 0x85: R229, mode R107. -/
def execStaZeroPage (zp : Byte) (s : State) : Result := storeForm (.zeroPage zp) s s.a

/-- STA $zz,X, opcode 0x95: R229, mode R108. -/
def execStaZeroPageX (zp : Byte) (s : State) : Result := storeForm (.zeroPageX zp) s s.a

/-- STA $hhll, opcode 0x8D: R229, mode R110. -/
def execStaAbsolute (addr : Addr) (s : State) : Result := storeForm (.absolute addr) s s.a

/-- STA $hhll,X, opcode 0x9D: R229, mode R111. -/
def execStaAbsoluteX (addr : Addr) (s : State) : Result := storeForm (.absoluteX addr) s s.a

/-- STA $hhll,Y, opcode 0x99: R229, mode R112. -/
def execStaAbsoluteY (addr : Addr) (s : State) : Result := storeForm (.absoluteY addr) s s.a

/-- STA ($zz,X), opcode 0x81: R229, mode R114. -/
def execStaIndirectX (zp : Byte) (s : State) : Result := storeForm (.indirectX zp) s s.a

/-- STA ($zz),Y, opcode 0x91: R229, mode R115. -/
def execStaIndirectY (zp : Byte) (s : State) : Result := storeForm (.indirectY zp) s s.a

/-- STX $zz, opcode 0x86: R230, mode R107. -/
def execStxZeroPage (zp : Byte) (s : State) : Result := storeForm (.zeroPage zp) s s.x

/-- STX $zz,Y, opcode 0x96: R230, mode R109. -/
def execStxZeroPageY (zp : Byte) (s : State) : Result := storeForm (.zeroPageY zp) s s.x

/-- STX $hhll, opcode 0x8E: R230, mode R110. -/
def execStxAbsolute (addr : Addr) (s : State) : Result := storeForm (.absolute addr) s s.x

/-- STY $zz, opcode 0x84: R231, mode R107. -/
def execStyZeroPage (zp : Byte) (s : State) : Result := storeForm (.zeroPage zp) s s.y

/-- STY $zz,X, opcode 0x94: R231, mode R108. -/
def execStyZeroPageX (zp : Byte) (s : State) : Result := storeForm (.zeroPageX zp) s s.y

/-- STY $hhll, opcode 0x8C: R231, mode R110. -/
def execStyAbsolute (addr : Addr) (s : State) : Result := storeForm (.absolute addr) s s.y

end Sys2Proof.Machine
end

