-- ==== Sys2Proof/Machine/Dispatch.lean ====
section
/-!
DEFINITION. The dispatch of an instruction to its meaning: one arm per constructor of `Instr` (R100's Execute).
-/

namespace Sys2Proof.Machine

def exec (i : Instr) (s : State) : Host.Outcome State Fault Refusal :=
  match i with
  | .adcImmediate imm => Sys2Proof.Machine.execAdcImmediate imm s
  | .adcZeroPage zp => Sys2Proof.Machine.execAdcZeroPage zp s
  | .adcZeroPageX zp => Sys2Proof.Machine.execAdcZeroPageX zp s
  | .adcAbsolute addr => Sys2Proof.Machine.execAdcAbsolute addr s
  | .adcAbsoluteX addr => Sys2Proof.Machine.execAdcAbsoluteX addr s
  | .adcAbsoluteY addr => Sys2Proof.Machine.execAdcAbsoluteY addr s
  | .adcIndirectX zp => Sys2Proof.Machine.execAdcIndirectX zp s
  | .adcIndirectY zp => Sys2Proof.Machine.execAdcIndirectY zp s
  | .sbcImmediate imm => Sys2Proof.Machine.execSbcImmediate imm s
  | .sbcZeroPage zp => Sys2Proof.Machine.execSbcZeroPage zp s
  | .sbcZeroPageX zp => Sys2Proof.Machine.execSbcZeroPageX zp s
  | .sbcAbsolute addr => Sys2Proof.Machine.execSbcAbsolute addr s
  | .sbcAbsoluteX addr => Sys2Proof.Machine.execSbcAbsoluteX addr s
  | .sbcAbsoluteY addr => Sys2Proof.Machine.execSbcAbsoluteY addr s
  | .sbcIndirectX zp => Sys2Proof.Machine.execSbcIndirectX zp s
  | .sbcIndirectY zp => Sys2Proof.Machine.execSbcIndirectY zp s
  | .andImmediate imm => Sys2Proof.Machine.execAndImmediate imm s
  | .andZeroPage zp => Sys2Proof.Machine.execAndZeroPage zp s
  | .andZeroPageX zp => Sys2Proof.Machine.execAndZeroPageX zp s
  | .andAbsolute addr => Sys2Proof.Machine.execAndAbsolute addr s
  | .andAbsoluteX addr => Sys2Proof.Machine.execAndAbsoluteX addr s
  | .andAbsoluteY addr => Sys2Proof.Machine.execAndAbsoluteY addr s
  | .andIndirectX zp => Sys2Proof.Machine.execAndIndirectX zp s
  | .andIndirectY zp => Sys2Proof.Machine.execAndIndirectY zp s
  | .oraImmediate imm => Sys2Proof.Machine.execOraImmediate imm s
  | .oraZeroPage zp => Sys2Proof.Machine.execOraZeroPage zp s
  | .oraZeroPageX zp => Sys2Proof.Machine.execOraZeroPageX zp s
  | .oraAbsolute addr => Sys2Proof.Machine.execOraAbsolute addr s
  | .oraAbsoluteX addr => Sys2Proof.Machine.execOraAbsoluteX addr s
  | .oraAbsoluteY addr => Sys2Proof.Machine.execOraAbsoluteY addr s
  | .oraIndirectX zp => Sys2Proof.Machine.execOraIndirectX zp s
  | .oraIndirectY zp => Sys2Proof.Machine.execOraIndirectY zp s
  | .eorImmediate imm => Sys2Proof.Machine.execEorImmediate imm s
  | .eorZeroPage zp => Sys2Proof.Machine.execEorZeroPage zp s
  | .eorZeroPageX zp => Sys2Proof.Machine.execEorZeroPageX zp s
  | .eorAbsolute addr => Sys2Proof.Machine.execEorAbsolute addr s
  | .eorAbsoluteX addr => Sys2Proof.Machine.execEorAbsoluteX addr s
  | .eorAbsoluteY addr => Sys2Proof.Machine.execEorAbsoluteY addr s
  | .eorIndirectX zp => Sys2Proof.Machine.execEorIndirectX zp s
  | .eorIndirectY zp => Sys2Proof.Machine.execEorIndirectY zp s
  | .bitZeroPage zp => Sys2Proof.Machine.execBitZeroPage zp s
  | .bitAbsolute addr => Sys2Proof.Machine.execBitAbsolute addr s
  | .aslAccumulator => Sys2Proof.Machine.execAslAccumulator s
  | .aslZeroPage zp => Sys2Proof.Machine.execAslZeroPage zp s
  | .aslZeroPageX zp => Sys2Proof.Machine.execAslZeroPageX zp s
  | .aslAbsolute addr => Sys2Proof.Machine.execAslAbsolute addr s
  | .aslAbsoluteX addr => Sys2Proof.Machine.execAslAbsoluteX addr s
  | .lsrAccumulator => Sys2Proof.Machine.execLsrAccumulator s
  | .lsrZeroPage zp => Sys2Proof.Machine.execLsrZeroPage zp s
  | .lsrZeroPageX zp => Sys2Proof.Machine.execLsrZeroPageX zp s
  | .lsrAbsolute addr => Sys2Proof.Machine.execLsrAbsolute addr s
  | .lsrAbsoluteX addr => Sys2Proof.Machine.execLsrAbsoluteX addr s
  | .rolAccumulator => Sys2Proof.Machine.execRolAccumulator s
  | .rolZeroPage zp => Sys2Proof.Machine.execRolZeroPage zp s
  | .rolZeroPageX zp => Sys2Proof.Machine.execRolZeroPageX zp s
  | .rolAbsolute addr => Sys2Proof.Machine.execRolAbsolute addr s
  | .rolAbsoluteX addr => Sys2Proof.Machine.execRolAbsoluteX addr s
  | .rorAccumulator => Sys2Proof.Machine.execRorAccumulator s
  | .rorZeroPage zp => Sys2Proof.Machine.execRorZeroPage zp s
  | .rorZeroPageX zp => Sys2Proof.Machine.execRorZeroPageX zp s
  | .rorAbsolute addr => Sys2Proof.Machine.execRorAbsolute addr s
  | .rorAbsoluteX addr => Sys2Proof.Machine.execRorAbsoluteX addr s
  | .bcc disp => Sys2Proof.Machine.execBcc disp s
  | .bcs disp => Sys2Proof.Machine.execBcs disp s
  | .beq disp => Sys2Proof.Machine.execBeq disp s
  | .bne disp => Sys2Proof.Machine.execBne disp s
  | .bmi disp => Sys2Proof.Machine.execBmi disp s
  | .bpl disp => Sys2Proof.Machine.execBpl disp s
  | .bvc disp => Sys2Proof.Machine.execBvc disp s
  | .bvs disp => Sys2Proof.Machine.execBvs disp s
  | .cmpImmediate imm => Sys2Proof.Machine.execCmpImmediate imm s
  | .cmpZeroPage zp => Sys2Proof.Machine.execCmpZeroPage zp s
  | .cmpZeroPageX zp => Sys2Proof.Machine.execCmpZeroPageX zp s
  | .cmpAbsolute addr => Sys2Proof.Machine.execCmpAbsolute addr s
  | .cmpAbsoluteX addr => Sys2Proof.Machine.execCmpAbsoluteX addr s
  | .cmpAbsoluteY addr => Sys2Proof.Machine.execCmpAbsoluteY addr s
  | .cmpIndirectX zp => Sys2Proof.Machine.execCmpIndirectX zp s
  | .cmpIndirectY zp => Sys2Proof.Machine.execCmpIndirectY zp s
  | .cpxImmediate imm => Sys2Proof.Machine.execCpxImmediate imm s
  | .cpxZeroPage zp => Sys2Proof.Machine.execCpxZeroPage zp s
  | .cpxAbsolute addr => Sys2Proof.Machine.execCpxAbsolute addr s
  | .cpyImmediate imm => Sys2Proof.Machine.execCpyImmediate imm s
  | .cpyZeroPage zp => Sys2Proof.Machine.execCpyZeroPage zp s
  | .cpyAbsolute addr => Sys2Proof.Machine.execCpyAbsolute addr s
  | .incZeroPage zp => Sys2Proof.Machine.execIncZeroPage zp s
  | .incZeroPageX zp => Sys2Proof.Machine.execIncZeroPageX zp s
  | .incAbsolute addr => Sys2Proof.Machine.execIncAbsolute addr s
  | .incAbsoluteX addr => Sys2Proof.Machine.execIncAbsoluteX addr s
  | .decZeroPage zp => Sys2Proof.Machine.execDecZeroPage zp s
  | .decZeroPageX zp => Sys2Proof.Machine.execDecZeroPageX zp s
  | .decAbsolute addr => Sys2Proof.Machine.execDecAbsolute addr s
  | .decAbsoluteX addr => Sys2Proof.Machine.execDecAbsoluteX addr s
  | .inx => Sys2Proof.Machine.execInx s
  | .iny => Sys2Proof.Machine.execIny s
  | .dex => Sys2Proof.Machine.execDex s
  | .dey => Sys2Proof.Machine.execDey s
  | .pha => Sys2Proof.Machine.execPha s
  | .php => Sys2Proof.Machine.execPhp s
  | .pla => Sys2Proof.Machine.execPla s
  | .plp => Sys2Proof.Machine.execPlp s
  | .jmpAbsolute addr => Sys2Proof.Machine.execJmpAbsolute addr s
  | .jmpIndirect ptr => Sys2Proof.Machine.execJmpIndirect ptr s
  | .jsr addr => Sys2Proof.Machine.execJsr addr s
  | .rts => Sys2Proof.Machine.execRts s
  | .rti => Sys2Proof.Machine.execRti s
  | .tax => Sys2Proof.Machine.execTax s
  | .tay => Sys2Proof.Machine.execTay s
  | .tsx => Sys2Proof.Machine.execTsx s
  | .txa => Sys2Proof.Machine.execTxa s
  | .txs => Sys2Proof.Machine.execTxs s
  | .tya => Sys2Proof.Machine.execTya s
  | .ldaImmediate imm => Sys2Proof.Machine.execLdaImmediate imm s
  | .ldaZeroPage zp => Sys2Proof.Machine.execLdaZeroPage zp s
  | .ldaZeroPageX zp => Sys2Proof.Machine.execLdaZeroPageX zp s
  | .ldaAbsolute addr => Sys2Proof.Machine.execLdaAbsolute addr s
  | .ldaAbsoluteX addr => Sys2Proof.Machine.execLdaAbsoluteX addr s
  | .ldaAbsoluteY addr => Sys2Proof.Machine.execLdaAbsoluteY addr s
  | .ldaIndirectX zp => Sys2Proof.Machine.execLdaIndirectX zp s
  | .ldaIndirectY zp => Sys2Proof.Machine.execLdaIndirectY zp s
  | .ldxImmediate imm => Sys2Proof.Machine.execLdxImmediate imm s
  | .ldxZeroPage zp => Sys2Proof.Machine.execLdxZeroPage zp s
  | .ldxZeroPageY zp => Sys2Proof.Machine.execLdxZeroPageY zp s
  | .ldxAbsolute addr => Sys2Proof.Machine.execLdxAbsolute addr s
  | .ldxAbsoluteY addr => Sys2Proof.Machine.execLdxAbsoluteY addr s
  | .ldyImmediate imm => Sys2Proof.Machine.execLdyImmediate imm s
  | .ldyZeroPage zp => Sys2Proof.Machine.execLdyZeroPage zp s
  | .ldyZeroPageX zp => Sys2Proof.Machine.execLdyZeroPageX zp s
  | .ldyAbsolute addr => Sys2Proof.Machine.execLdyAbsolute addr s
  | .ldyAbsoluteX addr => Sys2Proof.Machine.execLdyAbsoluteX addr s
  | .staZeroPage zp => Sys2Proof.Machine.execStaZeroPage zp s
  | .staZeroPageX zp => Sys2Proof.Machine.execStaZeroPageX zp s
  | .staAbsolute addr => Sys2Proof.Machine.execStaAbsolute addr s
  | .staAbsoluteX addr => Sys2Proof.Machine.execStaAbsoluteX addr s
  | .staAbsoluteY addr => Sys2Proof.Machine.execStaAbsoluteY addr s
  | .staIndirectX zp => Sys2Proof.Machine.execStaIndirectX zp s
  | .staIndirectY zp => Sys2Proof.Machine.execStaIndirectY zp s
  | .stxZeroPage zp => Sys2Proof.Machine.execStxZeroPage zp s
  | .stxZeroPageY zp => Sys2Proof.Machine.execStxZeroPageY zp s
  | .stxAbsolute addr => Sys2Proof.Machine.execStxAbsolute addr s
  | .styZeroPage zp => Sys2Proof.Machine.execStyZeroPage zp s
  | .styZeroPageX zp => Sys2Proof.Machine.execStyZeroPageX zp s
  | .styAbsolute addr => Sys2Proof.Machine.execStyAbsolute addr s
  | .clc => Sys2Proof.Machine.execClc s
  | .cld => Sys2Proof.Machine.execCld s
  | .cli => Sys2Proof.Machine.execCli s
  | .clv => Sys2Proof.Machine.execClv s
  | .sec => Sys2Proof.Machine.execSec s
  | .sed => Sys2Proof.Machine.execSed s
  | .sei => Sys2Proof.Machine.execSei s
  | .brk => Sys2Proof.Machine.execBrk s
  | .nop => Sys2Proof.Machine.execNop s

end Sys2Proof.Machine
end

