-- ==== Sys2Proof/Machine/Fetch.lean ====
section
/-!
DEFINITION. Fetching an instruction through the bus (R100, R60, R64): the opcode byte, then as many operand bytes as
its form has, in order. An undefined opcode is found before any operand byte is read (R262).
-/

namespace Sys2Proof.Machine

/-- The bytes read at `addr` and the addresses after it (modulo 65536), in order, and the state after the reads. -/
def fetchBytes (s : State) (addr : Addr) : Nat → List Byte × State
  | 0 => ([], s)
  | n + 1 =>
    let r := busRead s addr
    let rest := fetchBytes r.2 (addr + 1) n
    (r.1 :: rest.1, rest.2)

/-- The instruction at PC, or the decode failure (R100, R262), and the state after the fetch's reads. PC itself still
names the opcode byte: the meaning moves it (log entry 10). -/
def fetchInstr (s : State) : Except HaltReason Instr × State :=
  let op := busRead s s.pc
  match opcodeForm op.1 with
  | none => (.error (.illegalOpcode op.1 s.pc), op.2)
  | some (.bare i) => (.ok i, op.2)
  | some (.withByte build) =>
    let op1 := busRead op.2 (s.pc + 1)
    (.ok (build op1.1), op1.2)
  | some (.withWord build) =>
    let op1 := busRead op.2 (s.pc + 1)
    let op2 := busRead op1.2 (s.pc + 2)
    (.ok (build (wordOf op2.1 op1.1)), op2.2)

end Sys2Proof.Machine
end

