-- ==== Sys2Proof/Machine/Step.lean ====
section
/-!
DEFINITION. One step of the core (R100-R102, R260): fetch, decode, execute, all or nothing.
-/

namespace Sys2Proof.Machine

/-- `Step()` (R100). From `Halted` no step is defined (R102): the machine is stuck under the name `coreHalted`. Nor is
one before the first Reset (R300): the machine is stuck under the name `notReset`. A decode failure or a meaning's fault leaves the state before the step with `run` Halted (R101, R260, R262, R267). -/
def step (s : State) : Host.Outcome State Fault Refusal :=
  match s.run with
  | .awaitingReset => .fault .notReset
  | .halted e => .fault (.coreHalted e)
  | .running =>
    match fetchInstr s with
    | (.error e, t) => .next (raise s t e)
    | (.ok i, t) =>
      match exec i t with
      | .next u => .next (settle s u)
      | .fault f => .fault f
      | .refused r => .refused r

/-- The state with a table word's instruction where `step` fetches next, running (log entry 7). -/
def State.withFetchWord (s : State) (nbits w : Nat) : State := placeNextInstr s (tableBytes nbits w)

end Sys2Proof.Machine
end

