-- ==== Sys2Proof/Machine/HostPort.lean ====
section
/-!
DEFINITION. What the host can do to the core outside a step: creation (R300), program load (R61-R63), Reset (R301),
the two launches (R303, R304), the per-step hook (R275) and the run loop (R277, R278).
-/

namespace Sys2Proof.Machine

/-- Why the host's own operation is refused; no state results. -/
inductive LaunchRefusal where
  /-- A PRG image of a length other than 16384 or 32768 (D3, U7). Safe. -/
  | prgLength (bytes : Nat)
  /-- `Load` with the famicom map (R62, U8). Safe. -/
  | loadInFamicomMap
  deriving DecidableEq, Repr

/-- The non-zero bytes of a sequence with their offsets from `at`, in canonical form (log entry 4). -/
def cellsFrom (start : Nat) : List Byte → List (Nat × Byte)
  | [] => []
  | v :: rest => if v = 0x00 then cellsFrom (start + 1) rest else (start, v) :: cellsFrom (start + 1) rest

/-- The PRG image of a byte sequence, refused unless its length is admitted (R34, R47, D3). -/
def prgOfBytes (bytes : List Byte) : Except LaunchRefusal PrgImage :=
  if bytes.length = PrgSize.bank16K.bytes then .ok { size := .bank16K, cells := cellsFrom 0 bytes }
  else if bytes.length = PrgSize.bank32K.bytes then .ok { size := .bank32K, cells := cellsFrom 0 bytes }
  else .error (.prgLength bytes.length)

/-- `Reset(vectorAddress)` (R301): registers and P zeroed, SP 0xFF, running, the log emptied, then PC read through the
bus; memory and the configuration are kept. The draw counter is the model's own and is kept (log entry 6). -/
def hostReset (s : State) (vectorAddress : Addr) : State :=
  let cleared : State :=
    { s with a := 0x00, x := 0x00, y := 0x00, p := 0x00, sp := 0xFF, run := .running, log := [] }
  let vector := memRead2 cleared vectorAddress
  vector.2.setPc vector.1

/-- Creation (R300): memory all 0x00, and no step before a Reset. The spec gives the registers no value here; DESIGN
CHOICE (log entry 11), unsafe: they have those of `State.reset`, which the Reset of every launch below overwrites. -/
def createdState (c : Config) : State :=
  { State.reset with cfg := c, mem := [], run := .awaitingReset, log := [], draws := 0 }

/-- Copy bytes into the backing store at `base`, modulo 65536 (R61, R63). -/
def copyBytes (m : Memory) (base : Addr) : List Byte → Memory
  | [] => m
  | v :: rest => copyBytes (Memory.write m base.toNat v) (base + 1) rest

/-- `Load(bytes, base)` (R61): the bytes, then `base` in 0xFFFC-0xFFFD. Refused in the famicom map (R62). No register
changes. -/
def hostLoad (s : State) (bytes : List Byte) (base : Addr) : Except LaunchRefusal State :=
  match s.cfg.bus with
  | .famicom _ => .error .loadInFamicomMap
  | .flat =>
    .ok (s.setMem (Memory.write (Memory.write (copyBytes s.mem base bytes) 0xFFFC (lowByte base)) 0xFFFD
      (highByte base)))

/-- Famicom launch (R303): creation with the image, then Reset through the configured vector. -/
def launchFamicom (c : Config) (bytes : List Byte) : Except LaunchRefusal State :=
  match prgOfBytes bytes with
  | .error e => .error e
  | .ok prg => .ok (hostReset (createdState { c with bus := .famicom prg }) c.resetVector)

/-- Flat launch (R304): creation, Load at the configured address, Reset through the configured vector. -/
def launchFlat (c : Config) (bytes : List Byte) : Except LaunchRefusal State :=
  match hostLoad (createdState { c with bus := .flat }) bytes c.loadAddress with
  | .error e => .error e
  | .ok s => .ok (hostReset s c.resetVector)

/-- The host hook (R275), or none: a function of the whole state, called before each fetch. It is an argument and no
part of State, which is plain data (log entry 9). -/
abbrev Hook := Option (State → State)

/-- The hook applied: the configuration is held fixed for the run (R39), and the model's own draw counter keeps the
draws the hook's bus reads made and is never lowered, so that no later read repeats one (R45, log entry 9). -/
def applyHook (hook : Hook) (s : State) : State :=
  match hook with
  | none => s
  | some h => { h s with cfg := s.cfg, draws := max s.draws (h s).draws }

/-- `Run()` under fuel (R277, D24): while the core runs, the hook and then one step; never a hook call on a core
that does not run. The state reached when the core halts, the fuel ends, or a step gives no next state. -/
def runHost (hook : Hook) : Nat → State → State
  | 0, s => s
  | fuel + 1, s =>
    match s.run with
    | .awaitingReset => s
    | .halted _ => s
    | .running =>
      match step (applyHook hook s) with
      | .next t => runHost hook fuel t
      | .fault _ => applyHook hook s
      | .refused _ => applyHook hook s

/-- A run's normal end (R278): Halted by BRK and by nothing else. -/
def State.endedNormally (s : State) : Bool :=
  match s.run with
  | .awaitingReset => false
  | .running => false
  | .halted e => !e.isFault

end Sys2Proof.Machine
end

