-- ==== Sys2Proof/Safety.lean ====
section
/-!
DEFINITION. The terms claims are made in: the invariant of a state, what a read may touch, an instruction's operand
and the cells it stores to, which instructions the spec lets write each register and flag, and the flags of a result
told by numbers.
-/

namespace Sys2Proof

/-! ### Who may write what -/

/-- The instructions that write A (R20): a shift only in its accumulator form. -/
def Instr.writesA (i : Instr) : Bool :=
  i.mnemonic ∈ [.adc, .sbc, .and, .ora, .eor, .lda, .pla, .txa, .tya] || i.mode = .accumulator

/-- The instructions that write X (R20). -/
def Instr.writesX (i : Instr) : Bool := i.mnemonic ∈ [.ldx, .inx, .dex, .tax, .tsx]

/-- The instructions that write Y (R20). -/
def Instr.writesY (i : Instr) : Bool := i.mnemonic ∈ [.ldy, .iny, .dey, .tay]

/-- The instructions that write SP (R22). -/
def Instr.writesSp (i : Instr) : Bool := i.mnemonic ∈ [.pha, .php, .pla, .plp, .jsr, .rts, .rti, .txs]

/-- The mnemonics that write C (R24). -/
def Mnemonic.writesC (m : Mnemonic) : Bool :=
  m ∈ [.adc, .sbc, .asl, .lsr, .rol, .ror, .cmp, .cpx, .cpy, .clc, .sec, .plp, .rti]

/-- The mnemonics that write Z and N (R25, R31): the same ones. -/
def Mnemonic.writesZN (m : Mnemonic) : Bool :=
  m ∈ [.adc, .sbc, .and, .ora, .eor, .asl, .lsr, .rol, .ror, .inc, .dec, .inx, .iny, .dex, .dey, .lda, .ldx, .ldy,
    .tax, .tay, .tsx, .txa, .tya, .pla, .bit, .cmp, .cpx, .cpy, .plp, .rti]

/-- The mnemonics that write I (R26). -/
def Mnemonic.writesI (m : Mnemonic) : Bool := m ∈ [.cli, .sei, .plp, .rti]

/-- The mnemonics that write D (R27). -/
def Mnemonic.writesD (m : Mnemonic) : Bool := m ∈ [.cld, .sed, .plp, .rti]

/-- The mnemonics that write B and bit 5 (R28, R29). -/
def Mnemonic.writesB (m : Mnemonic) : Bool := m ∈ [.plp, .rti]

/-- The mnemonics that write V (R30). -/
def Mnemonic.writesV (m : Mnemonic) : Bool := m ∈ [.adc, .sbc, .bit, .clv, .plp, .rti]

/-- The mnemonics that transfer control (R103): their own rules say where PC ends. -/
def Mnemonic.transfersControl (m : Mnemonic) : Bool :=
  m ∈ [.bcc, .bcs, .beq, .bne, .bmi, .bpl, .bvc, .bvs, .jmp, .jsr, .rts, .rti]

/-- Whether the mnemonic stores to its operand's address (R119, R229-R231). -/
def Mnemonic.stores : Mnemonic → Bool
  | .sta | .stx | .sty | .asl | .lsr | .rol | .ror | .inc | .dec => true
  | _ => false

end Sys2Proof

namespace Sys2Proof.Machine

/-! ### The invariant -/

/-- A well-formed state: memory and the PRG image are in canonical form (R33, R34). It holds at reset and every step
keeps it. -/
def State.wf (s : State) : Bool := Memory.wf s.mem && Config.wf s.cfg

/-! ### What reads touch -/

/-- `t` is `s` but for the log and the draw counter: all that bus reads may change (R55). -/
def ReadsOnly (s t : State) : Prop := t = { s with log := t.log, draws := t.draws }

/-- The address and byte of a PPU-window read's event (R45). -/
def ppuDraw : BusEvent → Option (Addr × Byte)
  | .ppuRead addr v => some (addr, v)
  | .unmappedRead _ | .unmappedWrite .. | .ppuWrite .. => none

/-- The PPU-window reads among events, in order. -/
def drawsOf (es : List BusEvent) : List (Addr × Byte) := es.filterMap ppuDraw

/-- From `s` to `t` every PPU-window read took a draw number of its own: the log grew by some events, the counter rose
by the PPU reads among them, and the `k`-th of these answered the draw numbered `s.draws + k` (R45, log entry 5). -/
def DrawsNumbered (s t : State) : Prop :=
  ∃ es, t.log = s.log ++ es ∧ t.draws = s.draws + (drawsOf es).length ∧
    ∀ k addr v, (drawsOf es)[k]? = some (addr, v) → v = Config.ppuRead (s.draws + k) addr

/-! ### Loading -/

/-- What cell `n` holds after the bytes are copied to `base` and the addresses after it, modulo 65536, in order: the
last of the bytes that land there, or what it held before (R61). -/
def loadedByte (bytes : List Byte) (base n : Nat) (before : Byte) : Byte :=
  let k := (n + 65536 - base) % 65536
  if k < bytes.length then bytes.getD (k + 65536 * ((bytes.length - 1 - k) / 65536)) 0 else before

/-! ### Operands -/

/-- The operand of a mode and the state after it is read (R118): A, the immediate byte, or the byte at the resolver's
address; `none` where the resolver has no address to give. -/
def operandRead (m : Mode) (s : State) : Option (Byte × State) :=
  match m with
  | .accumulator => some (s.a, s)
  | .immediate v => some (v, s)
  | m =>
    match resolve m s with
    | .error _ => none
    | .ok (ea, t) => some (busRead t ea)

/-- Whether a write to the address raises `RomWrite` (R48, R263): the famicom map's 0x8000-0xFFFF. -/
def romTarget (c : Config) (ea : Addr) : Bool :=
  match c.bus with
  | .famicom _ => 0x8000 ≤ ea.toNat
  | .flat => false

/-- The cells of the backing store an instruction stores to, computed as its meaning computes them: the cell the
resolved address reaches, or the stack cells its pushes reach (R56, R119, R211). Empty where nothing is stored. -/
def storedCells (i : Instr) (s : State) : List Nat :=
  if i.mnemonic.stores then
    match resolve i.mode s with
    | .error _ => []
    | .ok (ea, t) => (cellOf t.cfg ea).toList
  else
    match i.mnemonic with
    | .pha | .php => (cellOf s.cfg (stackAddr s.sp)).toList
    | .jsr => (cellOf s.cfg (stackAddr s.sp)).toList ++ (cellOf s.cfg (stackAddr (s.sp - 1))).toList
    | _ => []

/-! ### Encodings -/

/-- The undefined opcode values, in the order R76 lists them. -/
def undefinedOpcodes : List Byte :=
  [0x02, 0x03, 0x04, 0x07, 0x0B, 0x0C, 0x0F, 0x12, 0x13, 0x14, 0x17, 0x1A, 0x1B, 0x1C, 0x1F,
    0x22, 0x23, 0x27, 0x2B, 0x2F, 0x32, 0x33, 0x34, 0x37, 0x3A, 0x3B, 0x3C, 0x3F, 0x42, 0x43,
    0x44, 0x47, 0x4B, 0x4F, 0x52, 0x53, 0x54, 0x57, 0x5A, 0x5B, 0x5C, 0x5F, 0x62, 0x63, 0x64,
    0x67, 0x6B, 0x6F, 0x72, 0x73, 0x74, 0x77, 0x7A, 0x7B, 0x7C, 0x7F, 0x80, 0x82, 0x83, 0x87,
    0x89, 0x8B, 0x8F, 0x92, 0x93, 0x97, 0x9B, 0x9C, 0x9E, 0x9F, 0xA3, 0xA7, 0xAB, 0xAF, 0xB2,
    0xB3, 0xB7, 0xBB, 0xBF, 0xC2, 0xC3, 0xC7, 0xCB, 0xCF, 0xD2, 0xD3, 0xD4, 0xD7, 0xDA, 0xDB,
    0xDC, 0xDF, 0xE2, 0xE3, 0xE7, 0xEB, 0xEF, 0xF2, 0xF3, 0xF4, 0xF7, 0xFA, 0xFB, 0xFC, 0xFF]

/-! ### Results told by numbers -/

/-- C of a status byte as a number. -/
def carryOf (p : Byte) : Nat := p.toNat % 2

/-- The status byte's Z and N are those of the value (R120). -/
def ZNof (p v : Byte) : Prop := p.getLsbD 1 = decide (v.toNat = 0) ∧ p.getLsbD 7 = decide (128 ≤ v.toNat)

/-- The two status bytes agree on every bit of the mask. -/
def AgreeOn (mask p q : Byte) : Prop := p &&& mask = q &&& mask

/-- The mnemonic's rows in the opcode table are exactly these opcodes with these modes (R74). -/
def HasForms (mn : Mnemonic) (forms : List (Byte × ModeName)) : Prop :=
  (∀ i : Instr, i.mnemonic = mn → (i.opcode, i.mode.name) ∈ forms) ∧
  (∀ f ∈ forms, ∃ i : Instr, i.mnemonic = mn ∧ i.opcode = f.1 ∧ i.mode.name = f.2)

/-- The value a shift, rotate, increment or decrement of memory makes of the operand `m` with carry `c`, as the
arithmetic of R160-R163, R184 and R185. -/
def modifiedValue (mn : Mnemonic) (m c : Nat) : Nat :=
  match mn with
  | .asl => 2 * m % 256
  | .lsr => m / 2
  | .rol => (2 * m + c) % 256
  | .ror => m / 2 + 128 * c
  | .inc => (m + 1) % 256
  | .dec => (m + 255) % 256
  | _ => m

/-- The carry after a shift or rotate of `m`: the bit shifted out (R160-R163). -/
def shiftedOut (mn : Mnemonic) (m : Nat) : Bool :=
  match mn with
  | .asl | .rol => 128 ≤ m
  | _ => m % 2 = 1

/-- The condition a branch tests, on the status byte (R171-R178). -/
def branchCondition (mn : Mnemonic) (p : Byte) : Bool :=
  match mn with
  | .bcc => !p.getLsbD 0
  | .bcs => p.getLsbD 0
  | .bne => !p.getLsbD 1
  | .beq => p.getLsbD 1
  | .bvc => !p.getLsbD 6
  | .bvs => p.getLsbD 6
  | .bpl => !p.getLsbD 7
  | .bmi => p.getLsbD 7
  | _ => false

/-- PC past the instruction, `(pc0 + len) mod 65536` (R103). -/
def pcAfter (i : Instr) (s : State) : Addr := s.pc + BitVec.ofNat 16 i.length

/-- Whether a run state is a fault's halt (R260). -/
def RunState.faulted : RunState → Bool
  | .awaitingReset => false
  | .running => false
  | .halted e => e.isFault

/-- The register a store instruction stores (R229-R231). -/
def storedRegister (mn : Mnemonic) (s : State) : Byte :=
  match mn with
  | .stx => s.x
  | .sty => s.y
  | _ => s.a

/-- `n` executions of one instruction, where each answers a next state. -/
def execTimes (i : Instr) : Nat → State → Option State
  | 0, s => some s
  | n + 1, s =>
    match exec i s with
    | .next t => execTimes i n t
    | .fault _ => none
    | .refused _ => none

end Sys2Proof.Machine
end

