-- ==== Sys2Proof/Certificates/Slice0/Obligations.lean ====
section
/-!
DEFINITION. The statements for the provers, each from the numbered rules of spec/ (OBLIGATIONS.json gives the cites).
Throughout, `exec i s` is the instruction at a state whose PC is the instruction's own opcode byte, `pc0`, after its
bytes are fetched (log entry 10), and a statement about a state is about every configuration that state may hold: both
bus maps, both image sizes, both settings of the JMP parameter.
-/

open Sys2Proof Sys2Proof.Machine

/-! ### Encoding -/

/-- R70-R74: the decoder gives back every encoded instruction, whatever bytes follow. -/
def Obligations.DecodeEncodeRoundTrip : Prop :=
  ∀ (i : Instr) (rest : List Byte), i.wellFormed = true → decode (encode i ++ rest) = .ok (i, rest)

/-- R70-R73: what the decoder reads is exactly the instruction's encoding, so no byte has two readings. -/
def Obligations.EncodeDecodeRoundTrip : Prop :=
  ∀ (bytes rest : List Byte) (i : Instr), decode bytes = .ok (i, rest) → encode i ++ rest = bytes

/-- R76, R262: the 105 listed values are exactly the undefined opcodes; the decoder refuses them, and fetching one is
the fault IllegalOpcode, with nothing else of the machine changed (`draws`, the model's own field, is left open
here). -/
def Obligations.UndefinedOpcodeFaults : Prop :=
  undefinedOpcodes.length = 105 ∧
  (∀ op : Byte, opcodeForm op = none ↔ op ∈ undefinedOpcodes) ∧
  (∀ op ∈ undefinedOpcodes, ∀ rest : List Byte, decode (op :: rest) = .error (.undefinedOpcode op)) ∧
  (∀ (s : State) (op : Byte), s.run = .running → (busRead s s.pc).1 = op → op ∈ undefinedOpcodes →
    ∃ n, step s = .next { s with run := .halted (.illegalOpcode op s.pc), draws := n })

/-- Words written out from the spec's program (section 8 of the source, W8) and its syntax table (R78). -/
def Obligations.SampleWordsDecode : Prop :=
  decode [0xA9, 0xC0] = .ok (.ldaImmediate 0xC0, []) ∧ decode [0xAA] = .ok (.tax, []) ∧
  decode [0xE8] = .ok (.inx, []) ∧ decode [0x00] = .ok (.brk, []) ∧
  decode [0x20, 0x30, 0x40] = .ok (.jsr 0x4030, []) ∧ decode [0x6C, 0xFF, 0x12] = .ok (.jmpIndirect 0x12FF, []) ∧
  decode [0xB6, 0x10] = .ok (.ldxZeroPageY 0x10, []) ∧ decode [0x9D, 0x00, 0x02] = .ok (.staAbsoluteX 0x0200, []) ∧
  decode [0xB1, 0x20] = .ok (.ldaIndirectY 0x20, []) ∧ decode [0xD0, 0xFA] = .ok (.bne 0xFA, [])

/-- R74, R77: the pairs of mnemonic and mode that are well formed are exactly those some opcode has. -/
def Obligations.AdmittedFormsAreTheTable : Prop :=
  ∀ (mn : Mnemonic) (n : ModeName), mn.admits n = true ↔ ∃ i : Instr, i.mnemonic = mn ∧ i.mode.name = n

/-- R70, R73: the opcode byte alone fixes the operation and the addressing mode. -/
def Obligations.OpcodeSelectsForm : Prop :=
  ∀ i j : Instr, i.opcode = j.opcode → i.mnemonic = j.mnemonic ∧ i.mode.name = j.mode.name

/-! ### The step -/

/-- R100, R101: when the bytes at PC decode to an instruction, the step fetches exactly those bytes and executes it;
the step's outcome is the meaning's, but that a fault's halt discards what the whole step did (`draws`, the model's own
field, is left open there). -/
def Obligations.StepRunsDecodedInstr : Prop :=
  ∀ (s t : State) (i : Instr) (bytes : List Byte), s.run = .running →
    fetchBytes s s.pc i.length = (bytes, t) → decode bytes = .ok (i, []) →
    ∃ u, exec i t = .next u ∧
      (u.run.faulted = false → step s = .next u) ∧
      (u.run.faulted = true → ∃ n, step s = .next { s with run := u.run, draws := n })

/-- R102, R300: no step is defined from Halted, nor before the first Reset, which is how creation leaves the core, with
memory all 0x00; the host's Reset leaves both. That an undefined step is one of the named stops `coreHalted` and
`notReset` is the model's choice (log entries 1 and 11). -/
def Obligations.HaltedCoreDoesNotStep : Prop :=
  (∀ (s : State) (e : HaltReason), s.run = .halted e → step s = .fault (.coreHalted e)) ∧
  (∀ s : State, s.run = .awaitingReset → step s = .fault .notReset) ∧
  (∀ c : Config, (createdState c).run = .awaitingReset ∧ (createdState c).cfg = c ∧
    ∀ n, Memory.read (createdState c).mem n = 0x00) ∧
  (∀ s u : State, step s = .next u → s.run = .running ∧ u.run ≠ .awaitingReset) ∧
  ∀ (s : State) (v : Addr), (hostReset s v).run = .running

/-- R101: a step that ends in a fault leaves everything but `run` as it was when the step began (and the model's own
draw counter, which is left open here). -/
def Obligations.FaultedStepHasNoEffect : Prop :=
  ∀ (s u : State), step s = .next u → u.run.faulted = true → u = { s with run := u.run, draws := u.draws }

/-- R260-R266: a step of a running core always answers, and ends running, in the halt of BRK, in IllegalOpcode with an
undefined opcode, or in RomWrite with an address of the PRG window; never in ResolverSentinel. -/
def Obligations.RunningStepOutcome : Prop :=
  ∀ s : State, s.run = .running → ∃ u, step s = .next u ∧
    (u.run = .running ∨ u.run = .halted (.brk s.pc) ∨
      (∃ op ∈ undefinedOpcodes, u.run = .halted (.illegalOpcode op s.pc)) ∨
      (∃ ea v, romTarget s.cfg ea = true ∧ u.run = .halted (.romWrite ea v)))

/-- The invariant: memory and the PRG image stay in canonical form through every step (R33, R34; the form itself is the
model's, log entries 4 and 12). -/
def Obligations.StepKeepsWellFormed : Prop :=
  ∀ s u : State, s.wf = true → step s = .next u → u.wf = true

/-- The invariant holds at reset. -/
def Obligations.ResetIsWellFormed : Prop := State.reset.wf = true

/-- R34, R39: the configuration, the PRG image in it, is held fixed: no step changes it. -/
def Obligations.StepKeepsConfiguration : Prop :=
  ∀ s u : State, step s = .next u → u.cfg = s.cfg

/-- R49: in the flat map no step logs an event, makes a draw or faults on a write. -/
def Obligations.FlatMapHasNoEventsOrRomWrite : Prop :=
  ∀ s u : State, s.cfg.bus = .flat → step s = .next u →
    u.log = s.log ∧ u.draws = s.draws ∧ ∀ ea v, u.run ≠ .halted (.romWrite ea v)

/-- R33, C11: in the famicom map the store above 0x07FF is unreachable from the CPU: no step writes it, and what it
holds changes nothing a step does. -/
def Obligations.FamicomUpperStoreUnreachable : Prop :=
  ∀ (s u : State) (m : Memory) (prg : PrgImage), s.cfg.bus = .famicom prg →
    (∀ n < 0x0800, Memory.read m n = Memory.read s.mem n) → step s = .next u →
    ∃ v, step (s.setMem m) = .next v ∧ v = { u with mem := v.mem } ∧
      (∀ n < 0x0800, Memory.read v.mem n = Memory.read u.mem n) ∧
      (∀ n, 0x0800 ≤ n → Memory.read u.mem n = Memory.read s.mem n ∧ Memory.read v.mem n = Memory.read m n)

/-- R36: a step only appends to the log, and the log has no effect on any step: over another log the step is the same
and appends the same events. -/
def Obligations.LogNeverAffectsExecution : Prop :=
  ∀ (s u : State) (l : List BusEvent), step s = .next u →
    ∃ es, u.log = s.log ++ es ∧ step { s with log := l } = .next { u with log := l ++ es }

/-- R26-R29: I, D, B and bit 5 are read by PHP alone: every other instruction does the same whatever they hold, and
leaves C, Z, V and N the same. -/
def Obligations.StoredFlagsAreInert : Prop :=
  ∀ (i : Instr) (s u : State) (q : Byte), i.mnemonic ≠ .php → AgreeOn 0xC3 q s.p → exec i s = .next u →
    ∃ v, exec i (s.setP q) = .next v ∧ v = { u with p := v.p } ∧ AgreeOn 0xC3 v.p u.p

/-! ### Frames -/

/-- R20, R22: no instruction changes A, X, Y or SP but those the spec lists as its writers. -/
def Obligations.RegisterFrame : Prop :=
  ∀ (i : Instr) (s u : State), exec i s = .next u →
    (i.writesA = false → u.a = s.a) ∧ (i.writesX = false → u.x = s.x) ∧
    (i.writesY = false → u.y = s.y) ∧ (i.writesSp = false → u.sp = s.sp) ∧ u.cfg = s.cfg

/-- R24-R31: no instruction changes a bit of P but those the spec lists as that bit's writers. -/
def Obligations.StatusFrame : Prop :=
  ∀ (i : Instr) (s u : State), exec i s = .next u →
    (i.mnemonic.writesC = false → u.p.getLsbD 0 = s.p.getLsbD 0) ∧
    (i.mnemonic.writesZN = false → u.p.getLsbD 1 = s.p.getLsbD 1 ∧ u.p.getLsbD 7 = s.p.getLsbD 7) ∧
    (i.mnemonic.writesI = false → u.p.getLsbD 2 = s.p.getLsbD 2) ∧
    (i.mnemonic.writesD = false → u.p.getLsbD 3 = s.p.getLsbD 3) ∧
    (i.mnemonic.writesB = false → u.p.getLsbD 4 = s.p.getLsbD 4 ∧ u.p.getLsbD 5 = s.p.getLsbD 5) ∧
    (i.mnemonic.writesV = false → u.p.getLsbD 6 = s.p.getLsbD 6)

/-- R54, R56, R119: an instruction leaves every byte of memory alone outside the cells it stores to, computed as its
meaning computes them; one that stores to no cell leaves memory the same data. -/
def Obligations.MemoryFrame : Prop :=
  ∀ (i : Instr) (s u : State), exec i s = .next u →
    (∀ n, n ∉ storedCells i s → Memory.read u.mem n = Memory.read s.mem n) ∧
    (storedCells i s = [] → u.mem = s.mem)

/-- R103: PC ends past the instruction unless the instruction transfers control; a fault leaves PC where it was. -/
def Obligations.ProgramCounterRule : Prop :=
  ∀ (i : Instr) (s u : State), s.run = .running → i.mnemonic.transfersControl = false → exec i s = .next u →
    u.pc = if u.run.faulted then s.pc else pcAfter i s

/-! ### Arithmetic and logic -/

/-- R140. -/
def Obligations.AdcResult : Prop :=
  HasForms .adc
    [(0x69, .immediate), (0x65, .zeroPage), (0x75, .zeroPageX), (0x6D, .absolute),
    (0x7D, .absoluteX), (0x79, .absoluteY), (0x61, .indirectX), (0x71, .indirectY)] ∧
  ∀ (i : Instr) (s : State), i.mnemonic = .adc →
    ∃ m t u, operandRead i.mode s = some (m, t) ∧ ReadsOnly s t ∧ exec i s = .next u ∧
      u = { t with a := u.a, p := u.p, pc := pcAfter i s } ∧
      u.a.toNat = (s.a.toNat + m.toNat + carryOf s.p) % 256 ∧
      u.p.getLsbD 0 = decide (255 < s.a.toNat + m.toNat + carryOf s.p) ∧
      u.p.getLsbD 6 = decide (s.a.toInt + m.toInt + carryOf s.p < -128 ∨ 127 < s.a.toInt + m.toInt + carryOf s.p) ∧
      ZNof u.p u.a ∧ AgreeOn 0x3C u.p s.p

/-- R141: the carry is the unsigned not-borrow, the overflow that of the signed difference. -/
def Obligations.SbcResult : Prop :=
  HasForms .sbc
    [(0xE9, .immediate), (0xE5, .zeroPage), (0xF5, .zeroPageX), (0xED, .absolute),
    (0xFD, .absoluteX), (0xF9, .absoluteY), (0xE1, .indirectX), (0xF1, .indirectY)] ∧
  ∀ (i : Instr) (s : State), i.mnemonic = .sbc →
    ∃ m t u, operandRead i.mode s = some (m, t) ∧ ReadsOnly s t ∧ exec i s = .next u ∧
      u = { t with a := u.a, p := u.p, pc := pcAfter i s } ∧
      (u.a.toNat : Int) = ((s.a.toNat : Int) - m.toNat - (1 - carryOf s.p)) % 256 ∧
      u.p.getLsbD 0 = decide (m.toNat + (1 - carryOf s.p) ≤ s.a.toNat) ∧
      u.p.getLsbD 6 = decide (s.a.toInt - m.toInt - (1 - (carryOf s.p : Int)) < -128 ∨
        127 < s.a.toInt - m.toInt - (1 - (carryOf s.p : Int))) ∧
      ZNof u.p u.a ∧ AgreeOn 0x3C u.p s.p

/-- R150, R151, R152. -/
def Obligations.AndOraEorResults : Prop :=
  HasForms .and
    [(0x29, .immediate), (0x25, .zeroPage), (0x35, .zeroPageX), (0x2D, .absolute),
    (0x3D, .absoluteX), (0x39, .absoluteY), (0x21, .indirectX), (0x31, .indirectY)] ∧
  HasForms .ora
    [(0x09, .immediate), (0x05, .zeroPage), (0x15, .zeroPageX), (0x0D, .absolute),
    (0x1D, .absoluteX), (0x19, .absoluteY), (0x01, .indirectX), (0x11, .indirectY)] ∧
  HasForms .eor
    [(0x49, .immediate), (0x45, .zeroPage), (0x55, .zeroPageX), (0x4D, .absolute),
    (0x5D, .absoluteX), (0x59, .absoluteY), (0x41, .indirectX), (0x51, .indirectY)] ∧
  ∀ (i : Instr) (s : State), i.mnemonic ∈ [Mnemonic.and, .ora, .eor] →
    ∃ m t u, operandRead i.mode s = some (m, t) ∧ ReadsOnly s t ∧ exec i s = .next u ∧
      u = { t with a := u.a, p := u.p, pc := pcAfter i s } ∧
      (i.mnemonic = .and → ∀ k, u.a.getLsbD k = (s.a.getLsbD k && m.getLsbD k)) ∧
      (i.mnemonic = .ora → ∀ k, u.a.getLsbD k = (s.a.getLsbD k || m.getLsbD k)) ∧
      (i.mnemonic = .eor → ∀ k, u.a.getLsbD k = (s.a.getLsbD k ^^ m.getLsbD k)) ∧
      ZNof u.p u.a ∧ AgreeOn 0x7D u.p s.p

/-- R153. -/
def Obligations.BitResult : Prop :=
  HasForms .bit [(0x24, .zeroPage), (0x2C, .absolute)] ∧
  ∀ (i : Instr) (s : State), i.mnemonic = .bit →
    ∃ m t u, operandRead i.mode s = some (m, t) ∧ ReadsOnly s t ∧ exec i s = .next u ∧
      u = { t with p := u.p, pc := pcAfter i s } ∧
      (u.p.getLsbD 1 = true ↔ ∀ k, ¬ (s.a.getLsbD k = true ∧ m.getLsbD k = true)) ∧
      u.p.getLsbD 7 = decide (128 ≤ m.toNat) ∧ u.p.getLsbD 6 = decide (64 ≤ m.toNat % 128) ∧
      AgreeOn 0x3D u.p s.p

/-- R160-R163: on the accumulator; on a cell, one read and one write at the one resolved address; and on the PRG window
of the famicom map the fault RomWrite with the byte that would have been written, with no effect. -/
def Obligations.ShiftRotateResults : Prop :=
  HasForms .asl
    [(0x0A, .accumulator), (0x06, .zeroPage), (0x16, .zeroPageX), (0x0E, .absolute),
    (0x1E, .absoluteX)] ∧
  HasForms .lsr
    [(0x4A, .accumulator), (0x46, .zeroPage), (0x56, .zeroPageX), (0x4E, .absolute),
    (0x5E, .absoluteX)] ∧
  HasForms .rol
    [(0x2A, .accumulator), (0x26, .zeroPage), (0x36, .zeroPageX), (0x2E, .absolute),
    (0x3E, .absoluteX)] ∧
  HasForms .ror
    [(0x6A, .accumulator), (0x66, .zeroPage), (0x76, .zeroPageX), (0x6E, .absolute),
    (0x7E, .absoluteX)] ∧
  (∀ (i : Instr) (s : State), i.mnemonic ∈ [Mnemonic.asl, .lsr, .rol, .ror] → i.mode = .accumulator →
    ∃ u, exec i s = .next u ∧ u = { s with a := u.a, p := u.p, pc := pcAfter i s } ∧
      u.a.toNat = modifiedValue i.mnemonic s.a.toNat (carryOf s.p) ∧
      u.p.getLsbD 0 = shiftedOut i.mnemonic s.a.toNat ∧ ZNof u.p u.a ∧ AgreeOn 0x7C u.p s.p) ∧
  (∀ (i : Instr) (s : State), i.mnemonic ∈ [Mnemonic.asl, .lsr, .rol, .ror] → i.mode ≠ .accumulator →
    ∃ ea m t, resolve i.mode s = .ok (ea, s) ∧ busRead s ea = (m, t) ∧ ReadsOnly s t ∧
      (romTarget s.cfg ea = false → ∃ r w u, r.toNat = modifiedValue i.mnemonic m.toNat (carryOf s.p) ∧
        busWrite t ea r = .ok w ∧ exec i s = .next u ∧ u = { w with p := u.p, pc := pcAfter i s } ∧
        u.p.getLsbD 0 = shiftedOut i.mnemonic m.toNat ∧ ZNof u.p r ∧ AgreeOn 0x7C u.p s.p) ∧
      (romTarget s.cfg ea = true → ∃ r, r.toNat = modifiedValue i.mnemonic m.toNat (carryOf s.p) ∧
        exec i s = .next { s with run := .halted (.romWrite ea r) }))

/-- R184, R185: only Z and N of P are written. -/
def Obligations.IncDecMemoryResults : Prop :=
  HasForms .inc [(0xE6, .zeroPage), (0xF6, .zeroPageX), (0xEE, .absolute), (0xFE, .absoluteX)] ∧
  HasForms .dec [(0xC6, .zeroPage), (0xD6, .zeroPageX), (0xCE, .absolute), (0xDE, .absoluteX)] ∧
  ∀ (i : Instr) (s : State), i.mnemonic ∈ [Mnemonic.inc, .dec] →
    ∃ ea m t, resolve i.mode s = .ok (ea, s) ∧ busRead s ea = (m, t) ∧ ReadsOnly s t ∧
      (romTarget s.cfg ea = false → ∃ r w u, r.toNat = modifiedValue i.mnemonic m.toNat (carryOf s.p) ∧
        busWrite t ea r = .ok w ∧ exec i s = .next u ∧ u = { w with p := u.p, pc := pcAfter i s } ∧
        ZNof u.p r ∧ AgreeOn 0x7D u.p s.p) ∧
      (romTarget s.cfg ea = true → ∃ r, r.toNat = modifiedValue i.mnemonic m.toNat (carryOf s.p) ∧
        exec i s = .next { s with run := .halted (.romWrite ea r) })

/-- R180-R183: N is bit 7 of the difference. -/
def Obligations.CompareResults : Prop :=
  HasForms .cmp
    [(0xC9, .immediate), (0xC5, .zeroPage), (0xD5, .zeroPageX), (0xCD, .absolute),
    (0xDD, .absoluteX), (0xD9, .absoluteY), (0xC1, .indirectX), (0xD1, .indirectY)] ∧
  HasForms .cpx [(0xE0, .immediate), (0xE4, .zeroPage), (0xEC, .absolute)] ∧
  HasForms .cpy [(0xC0, .immediate), (0xC4, .zeroPage), (0xCC, .absolute)] ∧
  ∀ (i : Instr) (s : State) (r : Byte),
    (i.mnemonic = .cmp ∧ r = s.a) ∨ (i.mnemonic = .cpx ∧ r = s.x) ∨ (i.mnemonic = .cpy ∧ r = s.y) →
    ∃ m t u, operandRead i.mode s = some (m, t) ∧ ReadsOnly s t ∧ exec i s = .next u ∧
      u = { t with p := u.p, pc := pcAfter i s } ∧
      u.p.getLsbD 0 = decide (m.toNat ≤ r.toNat) ∧ u.p.getLsbD 1 = decide (r = m) ∧
      u.p.getLsbD 7 = decide (128 ≤ (r.toNat + 256 - m.toNat) % 256) ∧ AgreeOn 0x7C u.p s.p

/-- R186-R189. -/
def Obligations.IndexStepResults : Prop :=
  HasForms .inx [(0xE8, .implied)] ∧ HasForms .iny [(0xC8, .implied)] ∧ HasForms .dex [(0xCA, .implied)] ∧ HasForms .dey [(0x88, .implied)] ∧
  ∀ s : State,
    (∃ u, exec .inx s = .next u ∧ u = { s with x := u.x, p := u.p, pc := s.pc + 1 } ∧
      u.x.toNat = (s.x.toNat + 1) % 256 ∧ ZNof u.p u.x ∧ AgreeOn 0x7D u.p s.p) ∧
    (∃ u, exec .iny s = .next u ∧ u = { s with y := u.y, p := u.p, pc := s.pc + 1 } ∧
      u.y.toNat = (s.y.toNat + 1) % 256 ∧ ZNof u.p u.y ∧ AgreeOn 0x7D u.p s.p) ∧
    (∃ u, exec .dex s = .next u ∧ u = { s with x := u.x, p := u.p, pc := s.pc + 1 } ∧
      u.x.toNat = (s.x.toNat + 255) % 256 ∧ ZNof u.p u.x ∧ AgreeOn 0x7D u.p s.p) ∧
    (∃ u, exec .dey s = .next u ∧ u = { s with y := u.y, p := u.p, pc := s.pc + 1 } ∧
      u.y.toNat = (s.y.toNat + 255) % 256 ∧ ZNof u.p u.y ∧ AgreeOn 0x7D u.p s.p)

/-- R162's corner case: nine rotations of A through C give A and C back. -/
def Obligations.NineRolsRestore : Prop :=
  ∀ s : State, ∃ u, execTimes .rolAccumulator 9 s = some u ∧ u.a = s.a ∧ u.p.getLsbD 0 = s.p.getLsbD 0

/-! ### Branches, jumps and the stack -/

/-- R170-R178: the target is `pc0 + 2` plus the signed displacement, modulo 65536. -/
def Obligations.BranchResults : Prop :=
  HasForms .bcc [(0x90, .relative)] ∧ HasForms .bcs [(0xB0, .relative)] ∧ HasForms .beq [(0xF0, .relative)] ∧ HasForms .bne [(0xD0, .relative)] ∧
  HasForms .bmi [(0x30, .relative)] ∧ HasForms .bpl [(0x10, .relative)] ∧ HasForms .bvc [(0x50, .relative)] ∧ HasForms .bvs [(0x70, .relative)] ∧
  ∀ (i : Instr) (s : State) (disp : Byte), i.mode = .relative disp →
    ∃ u, exec i s = .next u ∧ u = { s with pc := u.pc } ∧
      (u.pc.toNat : Int) =
        ((s.pc.toNat : Int) + 2 + if branchCondition i.mnemonic s.p then disp.toInt else 0) % 65536

/-- R210, R113. -/
def Obligations.JmpResult : Prop :=
  HasForms .jmp [(0x4C, .absolute), (0x6C, .indirect)] ∧
  (∀ i : Instr, i.mode.name = .indirect → i.mnemonic = .jmp ∧ i.length = 3) ∧
  (∀ (addr : Addr) (s : State), exec (.jmpAbsolute addr) s = .next { s with pc := addr }) ∧
  (∀ (ptr : Addr) (s : State), ∃ highAddr lo hi t1 t2,
    highAddr.toNat = (if s.cfg.jmpIndirectPageWrap = true ∧ ptr.toNat % 256 = 255 then ptr.toNat - 255
      else (ptr.toNat + 1) % 65536) ∧
    busRead s ptr = (lo, t1) ∧ busRead t1 highAddr = (hi, t2) ∧ ReadsOnly s t2 ∧
    exec (.jmpIndirect ptr) s = .next { t2 with pc := BitVec.ofNat 16 (256 * hi.toNat + lo.toNat) })

/-- R211: the address of the JSR's last byte is pushed, high byte first, and PC takes the operand. -/
def Obligations.JsrResult : Prop :=
  HasForms .jsr [(0x20, .absolute)] ∧
  ∀ (addr : Addr) (s : State), ∃ hi lo : Byte,
    256 * hi.toNat + lo.toNat = (s.pc.toNat + 2) % 65536 ∧
    exec (.jsr addr) s = .next
      { s with
        mem := Memory.write (Memory.write s.mem (256 + s.sp.toNat) hi) (256 + (s.sp.toNat + 255) % 256) lo
        sp := s.sp - 2
        pc := addr }

/-- R212, R213: RTS adds one to the popped address and RTI does not; RTI first pops the whole status byte. -/
def Obligations.ReturnResults : Prop :=
  HasForms .rts [(0x60, .implied)] ∧ HasForms .rti [(0x40, .implied)] ∧
  ∀ s : State,
    (∃ pc : Addr,
      pc.toNat = (256 * (Memory.read s.mem (256 + (s.sp.toNat + 2) % 256)).toNat +
        (Memory.read s.mem (256 + (s.sp.toNat + 1) % 256)).toNat + 1) % 65536 ∧
      exec .rts s = .next { s with sp := s.sp + 2, pc := pc }) ∧
    (∃ pc : Addr,
      pc.toNat = 256 * (Memory.read s.mem (256 + (s.sp.toNat + 3) % 256)).toNat +
        (Memory.read s.mem (256 + (s.sp.toNat + 2) % 256)).toNat ∧
      exec .rti s = .next
        { s with p := Memory.read s.mem (256 + (s.sp.toNat + 1) % 256), sp := s.sp + 3, pc := pc })

/-- R200, R201: the byte lands at `0x0100 + SP`, P raw, and SP goes down by one modulo 256. -/
def Obligations.PushResults : Prop :=
  HasForms .pha [(0x48, .implied)] ∧ HasForms .php [(0x08, .implied)] ∧
  ∀ s : State, ∃ sp : Byte, sp.toNat = (s.sp.toNat + 255) % 256 ∧
    exec .pha s = .next
      { s with mem := Memory.write s.mem (256 + s.sp.toNat) s.a, sp := sp, pc := s.pc + 1 } ∧
    exec .php s = .next
      { s with mem := Memory.write s.mem (256 + s.sp.toNat) s.p, sp := sp, pc := s.pc + 1 }

/-- R202, R203: PLA sets Z and N from the pulled byte; PLP overwrites the whole status byte. -/
def Obligations.PullResults : Prop :=
  HasForms .pla [(0x68, .implied)] ∧ HasForms .plp [(0x28, .implied)] ∧
  ∀ s : State, ∃ sp : Byte, sp.toNat = (s.sp.toNat + 1) % 256 ∧
    (∃ u, exec .pla s = .next u ∧
      u = { s with a := Memory.read s.mem (256 + sp.toNat), sp := sp, p := u.p, pc := s.pc + 1 } ∧
      ZNof u.p u.a ∧ AgreeOn 0x7D u.p s.p) ∧
    exec .plp s = .next { s with p := Memory.read s.mem (256 + sp.toNat), sp := sp, pc := s.pc + 1 }

/-- W5 and R203's corner case: a pull after a push gives the register and SP back, wherever SP stands. -/
def Obligations.PushThenPullRestores : Prop :=
  ∀ s : State,
    (∃ t u, exec .pha s = .next t ∧ exec .pla t = .next u ∧ u.a = s.a ∧ u.sp = s.sp ∧ u.x = s.x ∧ u.y = s.y) ∧
    (∃ t, exec .php s = .next t ∧ exec .plp t = .next { t with p := s.p, sp := s.sp, pc := s.pc + 2 })

/-- W6: an RTS at the subroutine's entry returns to the instruction after the 3-byte JSR with SP as it was. -/
def Obligations.CallThenReturnRestores : Prop :=
  ∀ (addr : Addr) (s : State), ∃ t, exec (.jsr addr) s = .next t ∧ t.pc = addr ∧
    exec .rts t = .next { s with mem := t.mem, pc := s.pc + 3 }

/-! ### Transfers, loads, stores, flags, BRK, NOP -/

/-- R220-R225: all but TXS write Z and N. -/
def Obligations.TransferResults : Prop :=
  HasForms .tax [(0xAA, .implied)] ∧ HasForms .tay [(0xA8, .implied)] ∧ HasForms .tsx [(0xBA, .implied)] ∧
  HasForms .txa [(0x8A, .implied)] ∧ HasForms .txs [(0x9A, .implied)] ∧ HasForms .tya [(0x98, .implied)] ∧
  ∀ s : State,
    (∃ p, exec .tax s = .next { s with x := s.a, p := p, pc := s.pc + 1 } ∧ ZNof p s.a ∧ AgreeOn 0x7D p s.p) ∧
    (∃ p, exec .tay s = .next { s with y := s.a, p := p, pc := s.pc + 1 } ∧ ZNof p s.a ∧ AgreeOn 0x7D p s.p) ∧
    (∃ p, exec .tsx s = .next { s with x := s.sp, p := p, pc := s.pc + 1 } ∧ ZNof p s.sp ∧ AgreeOn 0x7D p s.p) ∧
    (∃ p, exec .txa s = .next { s with a := s.x, p := p, pc := s.pc + 1 } ∧ ZNof p s.x ∧ AgreeOn 0x7D p s.p) ∧
    (∃ p, exec .tya s = .next { s with a := s.y, p := p, pc := s.pc + 1 } ∧ ZNof p s.y ∧ AgreeOn 0x7D p s.p) ∧
    exec .txs s = .next { s with sp := s.x, pc := s.pc + 1 }

/-- R226, R227, R228. -/
def Obligations.LoadResults : Prop :=
  HasForms .lda
    [(0xA9, .immediate), (0xA5, .zeroPage), (0xB5, .zeroPageX), (0xAD, .absolute),
    (0xBD, .absoluteX), (0xB9, .absoluteY), (0xA1, .indirectX), (0xB1, .indirectY)] ∧
  HasForms .ldx
    [(0xA2, .immediate), (0xA6, .zeroPage), (0xB6, .zeroPageY), (0xAE, .absolute),
    (0xBE, .absoluteY)] ∧
  HasForms .ldy
    [(0xA0, .immediate), (0xA4, .zeroPage), (0xB4, .zeroPageX), (0xAC, .absolute),
    (0xBC, .absoluteX)] ∧
  ∀ (i : Instr) (s : State), i.mnemonic ∈ [Mnemonic.lda, .ldx, .ldy] →
    ∃ m t p, operandRead i.mode s = some (m, t) ∧ ReadsOnly s t ∧ ZNof p m ∧ AgreeOn 0x7D p s.p ∧
      (i.mnemonic = .lda → exec i s = .next { t with a := m, p := p, pc := pcAfter i s }) ∧
      (i.mnemonic = .ldx → exec i s = .next { t with x := m, p := p, pc := pcAfter i s }) ∧
      (i.mnemonic = .ldy → exec i s = .next { t with y := m, p := p, pc := pcAfter i s })

/-- R229, R230, R231: the register goes to the resolved address by one bus write and the target is not read; on the PRG
window of the famicom map the instruction is the fault RomWrite and has no effect. -/
def Obligations.StoreResults : Prop :=
  HasForms .sta
    [(0x85, .zeroPage), (0x95, .zeroPageX), (0x8D, .absolute), (0x9D, .absoluteX),
    (0x99, .absoluteY), (0x81, .indirectX), (0x91, .indirectY)] ∧
  HasForms .stx [(0x86, .zeroPage), (0x96, .zeroPageY), (0x8E, .absolute)] ∧
  HasForms .sty [(0x84, .zeroPage), (0x94, .zeroPageX), (0x8C, .absolute)] ∧
  ∀ (i : Instr) (s : State), i.mnemonic ∈ [Mnemonic.sta, .stx, .sty] →
    ∃ ea, resolve i.mode s = .ok (ea, s) ∧
      (romTarget s.cfg ea = false → ∃ w, busWrite s ea (storedRegister i.mnemonic s) = .ok w ∧
        exec i s = .next { w with pc := pcAfter i s }) ∧
      (romTarget s.cfg ea = true →
        exec i s = .next { s with run := .halted (.romWrite ea (storedRegister i.mnemonic s)) })

/-- R240-R246: exactly one flag is written. -/
def Obligations.FlagInstrResults : Prop :=
  HasForms .clc [(0x18, .implied)] ∧ HasForms .cld [(0xD8, .implied)] ∧ HasForms .cli [(0x58, .implied)] ∧ HasForms .clv [(0xB8, .implied)] ∧
  HasForms .sec [(0x38, .implied)] ∧ HasForms .sed [(0xF8, .implied)] ∧ HasForms .sei [(0x78, .implied)] ∧
  ∀ (i : Instr) (s : State) (bit : Nat) (b : Bool),
    (i, bit, b) ∈ [(Instr.clc, 0, false), (.cld, 3, false), (.cli, 2, false), (.clv, 6, false),
      (.sec, 0, true), (.sed, 3, true), (.sei, 2, true)] →
    ∃ p, exec i s = .next { s with p := p, pc := s.pc + 1 } ∧
      ∀ k, p.getLsbD k = if k = bit then b else s.p.getLsbD k

/-- R247, R248: BRK halts the run with PC at `pc0 + 1` and nothing pushed; NOP only moves PC. -/
def Obligations.BrkNopResults : Prop :=
  HasForms .brk [(0x00, .implied)] ∧ HasForms .nop [(0xEA, .implied)] ∧
  ∀ s : State,
    exec .brk s = .next { s with run := .halted (.brk s.pc), pc := s.pc + 1 } ∧
    exec .nop s = .next { s with pc := s.pc + 1 }

/-! ### Addresses and the bus -/

/-- R106-R112, R114-R116: the effective address of every mode but Indirect, with the length of each mode (R71). Zero-page
pointers are cells of memory in both maps, so resolving these modes changes nothing. No instruction writes an immediate
(R106), and zero page by Y is LDX's and STX's alone (R109). -/
def Obligations.EffectiveAddresses : Prop :=
  (∀ n : ModeName, n.length =
    if n ∈ [ModeName.implied, .accumulator] then 1
    else if n ∈ [ModeName.absolute, .absoluteX, .absoluteY, .indirect] then 3 else 2) ∧
  (∀ i : Instr, (i.mode.name = .immediate → i.mnemonic.stores = false) ∧
    (i.mode.name = .zeroPageY → i.mnemonic ∈ [Mnemonic.ldx, .stx])) ∧
  ∀ s : State,
    (∀ v : Byte, ∃ ea, resolve (.immediate v) s = .ok (ea, s) ∧ ea.toNat = (s.pc.toNat + 1) % 65536) ∧
    (∀ zp : Byte, ∃ ea, resolve (.zeroPage zp) s = .ok (ea, s) ∧ ea.toNat = zp.toNat) ∧
    (∀ zp : Byte, ∃ ea, resolve (.zeroPageX zp) s = .ok (ea, s) ∧ ea.toNat = (zp.toNat + s.x.toNat) % 256) ∧
    (∀ zp : Byte, ∃ ea, resolve (.zeroPageY zp) s = .ok (ea, s) ∧ ea.toNat = (zp.toNat + s.y.toNat) % 256) ∧
    (∀ w : Addr, resolve (.absolute w) s = .ok (w, s)) ∧
    (∀ w : Addr, ∃ ea, resolve (.absoluteX w) s = .ok (ea, s) ∧ ea.toNat = (w.toNat + s.x.toNat) % 65536) ∧
    (∀ w : Addr, ∃ ea, resolve (.absoluteY w) s = .ok (ea, s) ∧ ea.toNat = (w.toNat + s.y.toNat) % 65536) ∧
    (∀ zp : Byte, ∃ ea, resolve (.indirectX zp) s = .ok (ea, s) ∧
      ea.toNat = 256 * (Memory.read s.mem ((zp.toNat + s.x.toNat + 1) % 256)).toNat +
        (Memory.read s.mem ((zp.toNat + s.x.toNat) % 256)).toNat) ∧
    (∀ zp : Byte, ∃ ea, resolve (.indirectY zp) s = .ok (ea, s) ∧
      ea.toNat = (256 * (Memory.read s.mem ((zp.toNat + 1) % 256)).toNat + (Memory.read s.mem zp.toNat).toNat +
        s.y.toNat) % 65536) ∧
    (∀ disp : Byte, ∃ ea, resolve (.relative disp) s = .ok (ea, s) ∧
      (ea.toNat : Int) = ((s.pc.toNat : Int) + 2 + disp.toInt) % 65536)

/-- R105, R106, R118: the operand of Accumulator is A, that of Immediate the instruction's own byte, which the fetch has
read; that it is not read a second time is the model's reading (DEDUCED, log entry 8). -/
def Obligations.RegisterAndImmediateOperands : Prop :=
  ∀ (s : State) (v : Byte), operandRead .accumulator s = some (s.a, s) ∧ operandRead (.immediate v) s = some (v, s) ∧
    ∀ use : Byte → State → State, ∃ t, t = { s with pc := s.pc + 2 } ∧ readForm (.immediate v) s use = .next (use v t)

/-- R117: the modes with no address are the resolver's sentinel, and reading or writing the accumulator asks for none. -/
def Obligations.ResolverSentinelModes : Prop :=
  ∀ (m : Mode) (s : State),
    ((∃ e, resolve m s = .error e) ↔ m = .implied ∨ m = .accumulator) ∧
    ∀ e, resolve m s = .error e → e = .resolverSentinel s.pc

/-- R42: a read in the famicom map, by the four classes of addresses; any byte may come from the PPU window. -/
def Obligations.FamicomBusRead : Prop :=
  ∀ (s : State) (prg : PrgImage) (addr : Addr), s.cfg.bus = .famicom prg →
    ∃ v t, busRead s addr = (v, t) ∧
      if addr.toNat ≤ 0x1FFF then v = Memory.read s.mem (addr.toNat % 2048) ∧ t = s
      else if addr.toNat ≤ 0x3FFF then t = { s with log := s.log ++ [.ppuRead addr v], draws := t.draws }
      else if addr.toNat ≤ 0x7FFF then v = 0x00 ∧ t = { s with log := s.log ++ [.unmappedRead addr] }
      else v = Memory.read prg.cells ((addr.toNat - 0x8000) % prg.size.bytes) ∧ t = s

/-- R45, D2, in the model's form (log entries 5, 6 and 9): a PPU read answers the free value of the next draw; the PPU
reads a step logs are numbered one after another from the counter, which rises by exactly their number; a step that ends
in a fault has its log discarded and keeps the counter its fetch left (what such a step resolves and reads after its
fetch is RAM and PRG, which draw nothing); Reset's vector read
goes on from the counter; and no hook lowers it. -/
def Obligations.PpuReadsDrawAfresh : Prop :=
  (∀ (s : State) (prg : PrgImage) (addr : Addr), s.cfg.bus = .famicom prg → 0x2000 ≤ addr.toNat → addr.toNat ≤ 0x3FFF →
    (busRead s addr).1 = Config.ppuRead s.draws addr ∧ (busRead s addr).2.draws = s.draws + 1) ∧
  (∀ s u : State, step s = .next u → u.run.faulted = false → DrawsNumbered s u) ∧
  (∀ s u : State, step s = .next u → u.run.faulted = true →
    DrawsNumbered s (fetchInstr s).2 ∧ u.draws = (fetchInstr s).2.draws) ∧
  (∀ (s : State) (v : Addr), DrawsNumbered { s with log := [] } (hostReset s v)) ∧
  ∀ (hook : Hook) (s : State), s.draws ≤ (applyHook hook s).draws

/-- R43: a write in the famicom map, by the four classes of addresses. -/
def Obligations.FamicomBusWrite : Prop :=
  ∀ (s : State) (prg : PrgImage) (addr : Addr) (v : Byte), s.cfg.bus = .famicom prg →
    busWrite s addr v =
      if addr.toNat ≤ 0x1FFF then .ok { s with mem := Memory.write s.mem (addr.toNat % 2048) v }
      else if addr.toNat ≤ 0x3FFF then .ok { s with log := s.log ++ [.ppuWrite addr v] }
      else if addr.toNat ≤ 0x7FFF then .ok { s with log := s.log ++ [.unmappedWrite addr v] }
      else .error (.romWrite addr v)

/-- R49: in the flat map every address is its own cell, read and written with no event and no fault. -/
def Obligations.FlatBusAccess : Prop :=
  ∀ (s : State) (addr : Addr) (v : Byte), s.cfg.bus = .flat →
    busRead s addr = (Memory.read s.mem addr.toNat, s) ∧
    ∃ w, busWrite s addr v = .ok w ∧ w = { s with mem := w.mem } ∧
      Memory.read w.mem addr.toNat = v ∧ ∀ n, n ≠ addr.toNat → Memory.read w.mem n = Memory.read s.mem n

/-- R44: the four mirror addresses of a RAM index are one cell, and the zero page and the stack page are in RAM. -/
def Obligations.RamMirror : Prop :=
  (∀ (s : State) (prg : PrgImage) (i k : Nat) (v : Byte), s.cfg.bus = .famicom prg → i < 2048 → k < 4 →
    busRead s (BitVec.ofNat 16 (i + k * 0x0800)) = (Memory.read s.mem i, s) ∧
    busWrite s (BitVec.ofNat 16 (i + k * 0x0800)) v = .ok { s with mem := Memory.write s.mem i v }) ∧
  (∀ b : Byte, busClass (zext16 b) = .ram ∧ busClass (stackAddr b) = .ram)

/-- R58: through whatever address, a read returns the byte the last write left in the cell, and other cells keep
theirs. -/
def Obligations.BusReadAfterWrite : Prop :=
  ∀ (s : State) (a b : Addr) (v : Byte) (n k : Nat), cellOf s.cfg a = some n → cellOf s.cfg b = some k →
    ∃ w, busWrite s a v = .ok w ∧ busRead w b = (if k = n then v else Memory.read s.mem k, w)

/-- R51: a 16-bit write whose two bytes are distinct cells is read back whole, through any address of the same cells. -/
def Obligations.WordWriteReadRoundTrip : Prop :=
  ∀ (s : State) (a b : Addr) (v : Addr) (n k : Nat),
    cellOf s.cfg a = some n → cellOf s.cfg (a + 1) = some k → n ≠ k →
    cellOf s.cfg b = some n → cellOf s.cfg (b + 1) = some k →
    ∃ w, memWrite2 s a v = .ok w ∧ memRead2 w b = (v, w)

/-! ### The host -/

/-- R301: what the host's Reset leaves, from any state. The draw counter, the model's own field, is left open before
and after the vector read. -/
def Obligations.HostResetResult : Prop :=
  ∀ (s : State) (v : Addr), ∃ d n w t,
    memRead2 { s with a := 0, x := 0, y := 0, p := 0, sp := 0xFF, run := .running, log := [], draws := d } v = (w, t) ∧
    hostReset s v = { s with
      a := 0, x := 0, y := 0, p := 0, sp := 0xFF, run := .running, log := t.log, draws := n, pc := w }

/-- R302 with the model's reset configuration (log entries 3 and 5): the values of `State.reset`, which the host's
Reset gives back. PC and the draw counter are the model's choices. -/
def Obligations.ResetStateValues : Prop :=
  State.reset.a = 0x00 ∧ State.reset.x = 0x00 ∧ State.reset.y = 0x00 ∧ State.reset.p = 0x00 ∧
  State.reset.sp = 0xFF ∧ State.reset.run = .running ∧ State.reset.log = [] ∧
  (∀ n, Memory.read State.reset.mem n = 0x00) ∧ hostReset State.reset 0xFFFC = State.reset

/-- R61, R62: Load copies the bytes modulo 65536 and then the base into 0xFFFC-0xFFFD, in the flat map alone; it
changes no register. -/
def Obligations.HostLoadWritesProgram : Prop :=
  (∀ (s : State) (bytes : List Byte) (base : Addr), s.cfg.bus = .flat →
    ∃ t, hostLoad s bytes base = .ok t ∧ t = { s with mem := t.mem } ∧
      ∀ n < 65536, Memory.read t.mem n =
        if n = 0xFFFC then BitVec.ofNat 8 (base.toNat % 256)
        else if n = 0xFFFD then BitVec.ofNat 8 (base.toNat / 256)
        else loadedByte bytes base.toNat n (Memory.read s.mem n)) ∧
  (∀ (s : State) (bytes : List Byte) (base : Addr) (prg : PrgImage), s.cfg.bus = .famicom prg →
    hostLoad s bytes base = .error .loadInFamicomMap)

/-- R304: the flat launch is creation, Load and Reset: it writes the program and the vector 0xFFFC-0xFFFD, and PC is the
word at the configured vector, the load address with the default one. -/
def Obligations.FlatLaunchEntersProgram : Prop :=
  ∀ (c : Config) (bytes : List Byte),
    ∃ s, launchFlat c bytes = .ok s ∧ s.cfg = { c with bus := .flat } ∧
      s.a = 0 ∧ s.x = 0 ∧ s.y = 0 ∧ s.p = 0 ∧ s.sp = 0xFF ∧ s.run = .running ∧ s.log = [] ∧
      (∀ n < 65536, Memory.read s.mem n =
        if n = 0xFFFC then BitVec.ofNat 8 (c.loadAddress.toNat % 256)
        else if n = 0xFFFD then BitVec.ofNat 8 (c.loadAddress.toNat / 256)
        else loadedByte bytes c.loadAddress.toNat n 0x00) ∧
      s.pc.toNat = 256 * (Memory.read s.mem ((c.resetVector.toNat + 1) % 65536)).toNat +
        (Memory.read s.mem c.resetVector.toNat).toNat ∧
      (c.resetVector = 0xFFFC → s.pc = c.loadAddress)

/-- R303, R47, D3: the famicom launch of an image of either admitted length: the PRG window reads the supplied bytes,
mirrored if they are 16384, memory is empty and the registers are Reset's; a vector in the window takes its entry point
from the image, the default one from its bytes at length - 4 (low) and length - 3 (high). Every other length is
refused. -/
def Obligations.FamicomLaunchEntersImage : Prop :=
  ∀ (c : Config) (bytes : List Byte),
    (bytes.length ≠ 16384 → bytes.length ≠ 32768 → launchFamicom c bytes = .error (.prgLength bytes.length)) ∧
    (bytes.length = 16384 ∨ bytes.length = 32768 → ∃ s prg, launchFamicom c bytes = .ok s ∧
      s.cfg = { c with bus := .famicom prg } ∧ s.wf = true ∧
      (∀ addr : Addr, 0x8000 ≤ addr.toNat → busRead s addr = (bytes.getD ((addr.toNat - 0x8000) % bytes.length) 0, s)) ∧
      s.mem = [] ∧ s.a = 0 ∧ s.x = 0 ∧ s.y = 0 ∧ s.p = 0 ∧ s.sp = 0xFF ∧ s.run = .running ∧
      (0x8000 ≤ c.resetVector.toNat → c.resetVector.toNat < 0xFFFF → s.log = [] ∧
        s.pc.toNat = 256 * (bytes.getD ((c.resetVector.toNat + 1 - 0x8000) % bytes.length) 0).toNat +
          (bytes.getD ((c.resetVector.toNat - 0x8000) % bytes.length) 0).toNat) ∧
      (c.resetVector = 0xFFFC →
        s.pc.toNat = 256 * (bytes.getD (bytes.length - 3) 0).toNat + (bytes.getD (bytes.length - 4) 0).toNat))

/-- R275, R277: while the core runs, a unit of fuel is the hook, where there is one, and then one step; a core that
does not run gets neither, so the loop stops at the first halt and more fuel changes nothing. The hook hands over the whole state but
the configuration, which R39 holds fixed, and the draw counter, the model's own, which is never lowered (log entry 9);
that a hook which leaves the core not running ends the run with the hook's state is the model's choice (log entry 9). -/
def Obligations.RunStopsAtHalt : Prop :=
  (∀ (hook : Hook) (n k : Nat) (s : State) (e : HaltReason),
    (runHost hook n s).run = .halted e → runHost hook (n + k) s = runHost hook n s) ∧
  (∀ (hook : Hook) (s : State), runHost hook 0 s = s) ∧
  (∀ (hook : Hook) (n : Nat) (s t : State), s.run = .running → step (applyHook hook s) = .next t →
    runHost hook (n + 1) s = runHost hook n t) ∧
  (∀ (hook : Hook) (n : Nat) (s : State), s.run = .running → (applyHook hook s).run ≠ .running →
    runHost hook (n + 1) s = applyHook hook s) ∧
  (∀ (hook : Hook) (n : Nat) (s : State), s.run ≠ .running → runHost hook n s = s) ∧
  (∀ s : State, applyHook none s = s) ∧
  ∀ (h : State → State) (s : State), ∃ d, s.draws ≤ d ∧ (h s).draws ≤ d ∧
    applyHook (some h) s = { h s with cfg := s.cfg, draws := d }
end

