-- ==== Sys2Proof/Laws/Memory.lean ====
section
/-!
SUPPORT. The laws of the sparse memory: a read after a write, and the canonical form kept by every operation. The
read laws need no canonical form: they hold of every list of cells.
-/

namespace Sys2Proof.Machine

/-! ### Reading after writing -/

@[simp] theorem Memory.read_nil (n : Nat) : Memory.read [] n = 0x00 := rfl

theorem Memory.read_erase_same (m : Memory) (n : Nat) : Memory.read (Memory.erase m n) n = 0x00 := by
  induction m with
  | nil => rfl
  | cons c rest ih =>
    by_cases h : c.1 = n
    · simp [Memory.erase, h, ih]
    · simp [Memory.erase, Memory.read, h, ih]

theorem Memory.read_erase_other (m : Memory) {n k : Nat} (hk : k ≠ n) :
    Memory.read (Memory.erase m n) k = Memory.read m k := by
  induction m with
  | nil => rfl
  | cons c rest ih =>
    by_cases h : c.1 = n
    · have : c.1 ≠ k := fun e => hk (e ▸ h)
      simp [Memory.erase, Memory.read, h, ih, Ne.symm hk]
    · simp [Memory.erase, Memory.read, h, ih]

theorem Memory.read_insert_same (m : Memory) (n : Nat) (v : Byte) : Memory.read (Memory.insert m n v) n = v := by
  induction m with
  | nil => simp [Memory.insert, Memory.read]
  | cons c rest ih =>
    unfold Memory.insert
    split
    · simp [Memory.read]
    · split
      · simp [Memory.read]
      · next h => simp [Memory.read, Ne.symm h, ih]

theorem Memory.read_insert_other (m : Memory) {n k : Nat} (v : Byte) (hk : k ≠ n) :
    Memory.read (Memory.insert m n v) k = Memory.read m k := by
  induction m with
  | nil => simp [Memory.insert, Memory.read, Ne.symm hk]
  | cons c rest ih =>
    unfold Memory.insert
    split
    · simp [Memory.read, Ne.symm hk]
    · split
      · next h => simp [Memory.read, Ne.symm hk, ← h]
      · simp [Memory.read, ih]

/-- The byte written is the byte read (R58). -/
theorem Memory.read_write_same (m : Memory) (n : Nat) (v : Byte) : Memory.read (Memory.write m n v) n = v := by
  unfold Memory.write
  split
  · next h => rw [Memory.read_erase_same, h]
  · exact Memory.read_insert_same m n v

/-- A write leaves every other cell alone. -/
theorem Memory.read_write_other (m : Memory) {n k : Nat} (v : Byte) (hk : k ≠ n) :
    Memory.read (Memory.write m n v) k = Memory.read m k := by
  unfold Memory.write
  split
  · exact Memory.read_erase_other m hk
  · exact Memory.read_insert_other m v hk

/-! ### The canonical form -/

/-- What the canonical form says: every entry below the bound and not 0x00, keys strictly rising. -/
theorem canonicalCells_iff (bound : Nat) (m : List (Nat × Byte)) :
    canonicalCells bound m = true ↔
      (∀ c ∈ m, c.1 < bound ∧ c.2 ≠ 0) ∧ m.Pairwise (fun c d => c.1 < d.1) := by
  induction m with
  | nil => simp [canonicalCells]
  | cons c rest ih =>
    cases rest with
    | nil => simp [canonicalCells]
    | cons d tail =>
      have hlt : ∀ {e : Nat × Byte}, e ∈ tail → (d :: tail).Pairwise (fun c d => c.1 < d.1) → d.1 < e.1 :=
        fun he hp => (List.pairwise_cons.1 hp).1 _ he
      simp only [canonicalCells, Bool.and_eq_true, decide_eq_true_eq, bne_iff_ne, ne_eq, ih]
      constructor
      · rintro ⟨⟨hcd, hc⟩, hall, hp⟩
        refine ⟨?_, List.pairwise_cons.2 ⟨?_, hp⟩⟩
        · intro e he
          rcases List.mem_cons.1 he with rfl | he
          · exact ⟨lt_trans hcd (hall d (by simp)).1, hc⟩
          · exact hall e he
        · intro e he
          rcases List.mem_cons.1 he with rfl | he
          · exact hcd
          · exact lt_trans hcd (hlt he hp)
      · rintro ⟨hall, hp⟩
        have hp' := List.pairwise_cons.1 hp
        exact ⟨⟨hp'.1 d (by simp), (hall c (by simp)).2⟩, fun e he => hall e (List.mem_cons_of_mem _ he), hp'.2⟩

theorem Memory.mem_of_mem_erase {m : Memory} {n : Nat} {c : Host.Cell} (h : c ∈ Memory.erase m n) : c ∈ m := by
  induction m with
  | nil => exact h
  | cons d rest ih =>
    unfold Memory.erase at h
    split at h
    · exact List.mem_cons_of_mem _ (ih h)
    · rcases List.mem_cons.1 h with rfl | h
      · exact List.mem_cons_self
      · exact List.mem_cons_of_mem _ (ih h)

theorem Memory.erase_pairwise {m : Memory} (n : Nat) (h : m.Pairwise (fun c d => c.1 < d.1)) :
    (Memory.erase m n).Pairwise (fun c d => c.1 < d.1) := by
  induction m with
  | nil => exact h
  | cons c rest ih =>
    have hp := List.pairwise_cons.1 h
    unfold Memory.erase
    split
    · exact ih hp.2
    · exact List.pairwise_cons.2 ⟨fun d hd => hp.1 d (Memory.mem_of_mem_erase hd), ih hp.2⟩

theorem Memory.mem_insert {m : Memory} {n : Nat} {v : Byte} {c : Host.Cell} (h : c ∈ Memory.insert m n v) :
    c = (n, v) ∨ c ∈ m := by
  induction m with
  | nil => simpa [Memory.insert] using h
  | cons d rest ih =>
    unfold Memory.insert at h
    split at h
    · simpa using h
    · split at h
      · rcases List.mem_cons.1 h with h | h
        · exact .inl h
        · exact .inr (List.mem_cons_of_mem _ h)
      · rcases List.mem_cons.1 h with h | h
        · exact .inr (by simp [h])
        · exact (ih h).imp id (List.mem_cons_of_mem _)

theorem Memory.insert_pairwise {m : Memory} (n : Nat) (v : Byte) (h : m.Pairwise (fun c d => c.1 < d.1)) :
    (Memory.insert m n v).Pairwise (fun c d => c.1 < d.1) := by
  induction m with
  | nil => simp [Memory.insert]
  | cons c rest ih =>
    have hp := List.pairwise_cons.1 h
    unfold Memory.insert
    split
    · next hlt =>
      refine List.pairwise_cons.2 ⟨fun d hd => ?_, h⟩
      rcases List.mem_cons.1 hd with rfl | hd
      · exact hlt
      · exact lt_trans hlt (hp.1 d hd)
    · split
      · next heq => exact List.pairwise_cons.2 ⟨fun d hd => by simpa [heq] using hp.1 d hd, hp.2⟩
      · next hlt hne =>
        refine List.pairwise_cons.2 ⟨fun d hd => ?_, ih hp.2⟩
        rcases Memory.mem_insert hd with rfl | hd
        · exact lt_of_le_of_ne (not_lt.1 hlt) (Ne.symm hne)
        · exact hp.1 d hd

/-- A write below the bound keeps the canonical form. -/
theorem canonicalCells_write {bound : Nat} {m : Memory} (n : Nat) (v : Byte) (hn : n < bound)
    (h : canonicalCells bound m = true) : canonicalCells bound (Memory.write m n v) = true := by
  rw [canonicalCells_iff] at h ⊢
  unfold Memory.write
  split
  · exact ⟨fun c hc => h.1 c (Memory.mem_of_mem_erase hc), Memory.erase_pairwise n h.2⟩
  · next hv =>
    refine ⟨fun c hc => ?_, Memory.insert_pairwise n v h.2⟩
    rcases Memory.mem_insert hc with rfl | hc
    · exact ⟨hn, hv⟩
    · exact h.1 c hc

/-- Writing a cell keeps memory canonical. -/
theorem Memory.wf_write {m : Memory} {n : Nat} (v : Byte) (hn : n < 65536) (h : Memory.wf m = true) :
    Memory.wf (Memory.write m n v) = true := canonicalCells_write n v hn h

/-- A bulk copy keeps memory canonical (R63). -/
theorem Memory.wf_copyBytes (bytes : List Byte) {m : Memory} (base : Addr) (h : Memory.wf m = true) :
    Memory.wf (copyBytes m base bytes) = true := by
  induction bytes generalizing m base with
  | nil => exact h
  | cons v rest ih => exact ih (base + 1) (Memory.wf_write v base.isLt h)

/-- Two canonical memories that read the same everywhere are the same data. -/
theorem Memory.ext_of_wf {m k : Memory} (hm : Memory.wf m = true) (hk : Memory.wf k = true)
    (h : ∀ n, Memory.read m n = Memory.read k n) : m = k := by
  have read_lt : ∀ {l : Memory} {n : Nat}, (∀ c ∈ l, n < c.1) → Memory.read l n = 0x00 := by
    intro l n hl
    induction l with
    | nil => rfl
    | cons c rest ih =>
      have := hl c (by simp)
      simp [Memory.read, Nat.ne_of_gt this, ih fun d hd => hl d (by simp [hd])]
  simp only [Memory.wf, canonicalCells_iff] at hm hk
  induction m generalizing k with
  | nil =>
    cases k with
    | nil => rfl
    | cons d rest => exact absurd (by simpa [Memory.read] using (h d.1).symm) (hk.1 d (by simp)).2
  | cons c mrest ih =>
    have hmp := List.pairwise_cons.1 hm.2
    cases k with
    | nil => exact absurd (by simpa [Memory.read] using h c.1) (hm.1 c (by simp)).2
    | cons d krest =>
      have hkp := List.pairwise_cons.1 hk.2
      have hkey : c.1 = d.1 := by
        rcases lt_trichotomy c.1 d.1 with hlt | heq | hlt
        · have := h c.1
          rw [read_lt (l := d :: krest) (fun e he => by
            rcases List.mem_cons.1 he with rfl | he
            · exact hlt
            · exact lt_trans hlt (hkp.1 e he))] at this
          exact absurd (by simpa [Memory.read] using this) (hm.1 c (by simp)).2
        · exact heq
        · have := h d.1
          rw [read_lt (l := c :: mrest) (fun e he => by
            rcases List.mem_cons.1 he with rfl | he
            · exact hlt
            · exact lt_trans hlt (hmp.1 e he))] at this
          exact absurd (by simpa [Memory.read] using this.symm) (hk.1 d (by simp)).2
      have hval : c.2 = d.2 := by simpa [Memory.read, hkey] using h c.1
      have hrest : mrest = krest := by
        refine ih (fun n => ?_) ⟨fun e he => hm.1 e (by simp [he]), hmp.2⟩
          ⟨fun e he => hk.1 e (by simp [he]), hkp.2⟩
        have := h n
        by_cases hn : c.1 = n
        · subst hn
          rw [read_lt hmp.1, read_lt (by simpa [hkey] using hkp.1)]
        · simpa [Memory.read, hn, hkey ▸ hn] using this
      rw [hrest, Prod.ext hkey hval]

end Sys2Proof.Machine
end

