-- ==== Sys2Proof/Laws/State.lean ====
section
/-!
SUPPORT. What each field of the state reads after each named update: one lemma per field per update, all by `rfl`.
-/

namespace Sys2Proof.Machine

/-! ### setA -/

@[simp] theorem State.setA_a (s : State) (v : Byte) : (s.setA v).a = v := rfl
@[simp] theorem State.setA_x (s : State) (v : Byte) : (s.setA v).x = s.x := rfl
@[simp] theorem State.setA_y (s : State) (v : Byte) : (s.setA v).y = s.y := rfl
@[simp] theorem State.setA_pc (s : State) (v : Byte) : (s.setA v).pc = s.pc := rfl
@[simp] theorem State.setA_sp (s : State) (v : Byte) : (s.setA v).sp = s.sp := rfl
@[simp] theorem State.setA_p (s : State) (v : Byte) : (s.setA v).p = s.p := rfl
@[simp] theorem State.setA_mem (s : State) (v : Byte) : (s.setA v).mem = s.mem := rfl
@[simp] theorem State.setA_run (s : State) (v : Byte) : (s.setA v).run = s.run := rfl
@[simp] theorem State.setA_log (s : State) (v : Byte) : (s.setA v).log = s.log := rfl
@[simp] theorem State.setA_draws (s : State) (v : Byte) : (s.setA v).draws = s.draws := rfl
@[simp] theorem State.setA_cfg (s : State) (v : Byte) : (s.setA v).cfg = s.cfg := rfl

/-! ### setX -/

@[simp] theorem State.setX_a (s : State) (v : Byte) : (s.setX v).a = s.a := rfl
@[simp] theorem State.setX_x (s : State) (v : Byte) : (s.setX v).x = v := rfl
@[simp] theorem State.setX_y (s : State) (v : Byte) : (s.setX v).y = s.y := rfl
@[simp] theorem State.setX_pc (s : State) (v : Byte) : (s.setX v).pc = s.pc := rfl
@[simp] theorem State.setX_sp (s : State) (v : Byte) : (s.setX v).sp = s.sp := rfl
@[simp] theorem State.setX_p (s : State) (v : Byte) : (s.setX v).p = s.p := rfl
@[simp] theorem State.setX_mem (s : State) (v : Byte) : (s.setX v).mem = s.mem := rfl
@[simp] theorem State.setX_run (s : State) (v : Byte) : (s.setX v).run = s.run := rfl
@[simp] theorem State.setX_log (s : State) (v : Byte) : (s.setX v).log = s.log := rfl
@[simp] theorem State.setX_draws (s : State) (v : Byte) : (s.setX v).draws = s.draws := rfl
@[simp] theorem State.setX_cfg (s : State) (v : Byte) : (s.setX v).cfg = s.cfg := rfl

/-! ### setY -/

@[simp] theorem State.setY_a (s : State) (v : Byte) : (s.setY v).a = s.a := rfl
@[simp] theorem State.setY_x (s : State) (v : Byte) : (s.setY v).x = s.x := rfl
@[simp] theorem State.setY_y (s : State) (v : Byte) : (s.setY v).y = v := rfl
@[simp] theorem State.setY_pc (s : State) (v : Byte) : (s.setY v).pc = s.pc := rfl
@[simp] theorem State.setY_sp (s : State) (v : Byte) : (s.setY v).sp = s.sp := rfl
@[simp] theorem State.setY_p (s : State) (v : Byte) : (s.setY v).p = s.p := rfl
@[simp] theorem State.setY_mem (s : State) (v : Byte) : (s.setY v).mem = s.mem := rfl
@[simp] theorem State.setY_run (s : State) (v : Byte) : (s.setY v).run = s.run := rfl
@[simp] theorem State.setY_log (s : State) (v : Byte) : (s.setY v).log = s.log := rfl
@[simp] theorem State.setY_draws (s : State) (v : Byte) : (s.setY v).draws = s.draws := rfl
@[simp] theorem State.setY_cfg (s : State) (v : Byte) : (s.setY v).cfg = s.cfg := rfl

/-! ### setPc -/

@[simp] theorem State.setPc_a (s : State) (v : Addr) : (s.setPc v).a = s.a := rfl
@[simp] theorem State.setPc_x (s : State) (v : Addr) : (s.setPc v).x = s.x := rfl
@[simp] theorem State.setPc_y (s : State) (v : Addr) : (s.setPc v).y = s.y := rfl
@[simp] theorem State.setPc_pc (s : State) (v : Addr) : (s.setPc v).pc = v := rfl
@[simp] theorem State.setPc_sp (s : State) (v : Addr) : (s.setPc v).sp = s.sp := rfl
@[simp] theorem State.setPc_p (s : State) (v : Addr) : (s.setPc v).p = s.p := rfl
@[simp] theorem State.setPc_mem (s : State) (v : Addr) : (s.setPc v).mem = s.mem := rfl
@[simp] theorem State.setPc_run (s : State) (v : Addr) : (s.setPc v).run = s.run := rfl
@[simp] theorem State.setPc_log (s : State) (v : Addr) : (s.setPc v).log = s.log := rfl
@[simp] theorem State.setPc_draws (s : State) (v : Addr) : (s.setPc v).draws = s.draws := rfl
@[simp] theorem State.setPc_cfg (s : State) (v : Addr) : (s.setPc v).cfg = s.cfg := rfl

/-! ### setSp -/

@[simp] theorem State.setSp_a (s : State) (v : Byte) : (s.setSp v).a = s.a := rfl
@[simp] theorem State.setSp_x (s : State) (v : Byte) : (s.setSp v).x = s.x := rfl
@[simp] theorem State.setSp_y (s : State) (v : Byte) : (s.setSp v).y = s.y := rfl
@[simp] theorem State.setSp_pc (s : State) (v : Byte) : (s.setSp v).pc = s.pc := rfl
@[simp] theorem State.setSp_sp (s : State) (v : Byte) : (s.setSp v).sp = v := rfl
@[simp] theorem State.setSp_p (s : State) (v : Byte) : (s.setSp v).p = s.p := rfl
@[simp] theorem State.setSp_mem (s : State) (v : Byte) : (s.setSp v).mem = s.mem := rfl
@[simp] theorem State.setSp_run (s : State) (v : Byte) : (s.setSp v).run = s.run := rfl
@[simp] theorem State.setSp_log (s : State) (v : Byte) : (s.setSp v).log = s.log := rfl
@[simp] theorem State.setSp_draws (s : State) (v : Byte) : (s.setSp v).draws = s.draws := rfl
@[simp] theorem State.setSp_cfg (s : State) (v : Byte) : (s.setSp v).cfg = s.cfg := rfl

/-! ### setP -/

@[simp] theorem State.setP_a (s : State) (v : Byte) : (s.setP v).a = s.a := rfl
@[simp] theorem State.setP_x (s : State) (v : Byte) : (s.setP v).x = s.x := rfl
@[simp] theorem State.setP_y (s : State) (v : Byte) : (s.setP v).y = s.y := rfl
@[simp] theorem State.setP_pc (s : State) (v : Byte) : (s.setP v).pc = s.pc := rfl
@[simp] theorem State.setP_sp (s : State) (v : Byte) : (s.setP v).sp = s.sp := rfl
@[simp] theorem State.setP_p (s : State) (v : Byte) : (s.setP v).p = v := rfl
@[simp] theorem State.setP_mem (s : State) (v : Byte) : (s.setP v).mem = s.mem := rfl
@[simp] theorem State.setP_run (s : State) (v : Byte) : (s.setP v).run = s.run := rfl
@[simp] theorem State.setP_log (s : State) (v : Byte) : (s.setP v).log = s.log := rfl
@[simp] theorem State.setP_draws (s : State) (v : Byte) : (s.setP v).draws = s.draws := rfl
@[simp] theorem State.setP_cfg (s : State) (v : Byte) : (s.setP v).cfg = s.cfg := rfl

/-! ### setMem -/

@[simp] theorem State.setMem_a (s : State) (m : Memory) : (s.setMem m).a = s.a := rfl
@[simp] theorem State.setMem_x (s : State) (m : Memory) : (s.setMem m).x = s.x := rfl
@[simp] theorem State.setMem_y (s : State) (m : Memory) : (s.setMem m).y = s.y := rfl
@[simp] theorem State.setMem_pc (s : State) (m : Memory) : (s.setMem m).pc = s.pc := rfl
@[simp] theorem State.setMem_sp (s : State) (m : Memory) : (s.setMem m).sp = s.sp := rfl
@[simp] theorem State.setMem_p (s : State) (m : Memory) : (s.setMem m).p = s.p := rfl
@[simp] theorem State.setMem_mem (s : State) (m : Memory) : (s.setMem m).mem = m := rfl
@[simp] theorem State.setMem_run (s : State) (m : Memory) : (s.setMem m).run = s.run := rfl
@[simp] theorem State.setMem_log (s : State) (m : Memory) : (s.setMem m).log = s.log := rfl
@[simp] theorem State.setMem_draws (s : State) (m : Memory) : (s.setMem m).draws = s.draws := rfl
@[simp] theorem State.setMem_cfg (s : State) (m : Memory) : (s.setMem m).cfg = s.cfg := rfl

/-! ### setRun -/

@[simp] theorem State.setRun_a (s : State) (r : RunState) : (s.setRun r).a = s.a := rfl
@[simp] theorem State.setRun_x (s : State) (r : RunState) : (s.setRun r).x = s.x := rfl
@[simp] theorem State.setRun_y (s : State) (r : RunState) : (s.setRun r).y = s.y := rfl
@[simp] theorem State.setRun_pc (s : State) (r : RunState) : (s.setRun r).pc = s.pc := rfl
@[simp] theorem State.setRun_sp (s : State) (r : RunState) : (s.setRun r).sp = s.sp := rfl
@[simp] theorem State.setRun_p (s : State) (r : RunState) : (s.setRun r).p = s.p := rfl
@[simp] theorem State.setRun_mem (s : State) (r : RunState) : (s.setRun r).mem = s.mem := rfl
@[simp] theorem State.setRun_run (s : State) (r : RunState) : (s.setRun r).run = r := rfl
@[simp] theorem State.setRun_log (s : State) (r : RunState) : (s.setRun r).log = s.log := rfl
@[simp] theorem State.setRun_draws (s : State) (r : RunState) : (s.setRun r).draws = s.draws := rfl
@[simp] theorem State.setRun_cfg (s : State) (r : RunState) : (s.setRun r).cfg = s.cfg := rfl

/-! ### logEvent -/

@[simp] theorem State.logEvent_a (s : State) (e : BusEvent) : (s.logEvent e).a = s.a := rfl
@[simp] theorem State.logEvent_x (s : State) (e : BusEvent) : (s.logEvent e).x = s.x := rfl
@[simp] theorem State.logEvent_y (s : State) (e : BusEvent) : (s.logEvent e).y = s.y := rfl
@[simp] theorem State.logEvent_pc (s : State) (e : BusEvent) : (s.logEvent e).pc = s.pc := rfl
@[simp] theorem State.logEvent_sp (s : State) (e : BusEvent) : (s.logEvent e).sp = s.sp := rfl
@[simp] theorem State.logEvent_p (s : State) (e : BusEvent) : (s.logEvent e).p = s.p := rfl
@[simp] theorem State.logEvent_mem (s : State) (e : BusEvent) : (s.logEvent e).mem = s.mem := rfl
@[simp] theorem State.logEvent_run (s : State) (e : BusEvent) : (s.logEvent e).run = s.run := rfl
@[simp] theorem State.logEvent_log (s : State) (e : BusEvent) : (s.logEvent e).log = s.log ++ [e] := rfl
@[simp] theorem State.logEvent_draws (s : State) (e : BusEvent) : (s.logEvent e).draws = s.draws := rfl
@[simp] theorem State.logEvent_cfg (s : State) (e : BusEvent) : (s.logEvent e).cfg = s.cfg := rfl

/-! ### countDraw -/

@[simp] theorem State.countDraw_a (s : State) : (s.countDraw).a = s.a := rfl
@[simp] theorem State.countDraw_x (s : State) : (s.countDraw).x = s.x := rfl
@[simp] theorem State.countDraw_y (s : State) : (s.countDraw).y = s.y := rfl
@[simp] theorem State.countDraw_pc (s : State) : (s.countDraw).pc = s.pc := rfl
@[simp] theorem State.countDraw_sp (s : State) : (s.countDraw).sp = s.sp := rfl
@[simp] theorem State.countDraw_p (s : State) : (s.countDraw).p = s.p := rfl
@[simp] theorem State.countDraw_mem (s : State) : (s.countDraw).mem = s.mem := rfl
@[simp] theorem State.countDraw_run (s : State) : (s.countDraw).run = s.run := rfl
@[simp] theorem State.countDraw_log (s : State) : (s.countDraw).log = s.log := rfl
@[simp] theorem State.countDraw_draws (s : State) : (s.countDraw).draws = s.draws + 1 := rfl
@[simp] theorem State.countDraw_cfg (s : State) : (s.countDraw).cfg = s.cfg := rfl

/-! ### setCfg -/

@[simp] theorem State.setCfg_a (s : State) (c : Config) : (s.setCfg c).a = s.a := rfl
@[simp] theorem State.setCfg_x (s : State) (c : Config) : (s.setCfg c).x = s.x := rfl
@[simp] theorem State.setCfg_y (s : State) (c : Config) : (s.setCfg c).y = s.y := rfl
@[simp] theorem State.setCfg_pc (s : State) (c : Config) : (s.setCfg c).pc = s.pc := rfl
@[simp] theorem State.setCfg_sp (s : State) (c : Config) : (s.setCfg c).sp = s.sp := rfl
@[simp] theorem State.setCfg_p (s : State) (c : Config) : (s.setCfg c).p = s.p := rfl
@[simp] theorem State.setCfg_mem (s : State) (c : Config) : (s.setCfg c).mem = s.mem := rfl
@[simp] theorem State.setCfg_run (s : State) (c : Config) : (s.setCfg c).run = s.run := rfl
@[simp] theorem State.setCfg_log (s : State) (c : Config) : (s.setCfg c).log = s.log := rfl
@[simp] theorem State.setCfg_draws (s : State) (c : Config) : (s.setCfg c).draws = s.draws := rfl
@[simp] theorem State.setCfg_cfg (s : State) (c : Config) : (s.setCfg c).cfg = c := rfl

/-! ### advance -/

@[simp] theorem State.advance_a (s : State) (n : ModeName) : (s.advance n).a = s.a := rfl
@[simp] theorem State.advance_x (s : State) (n : ModeName) : (s.advance n).x = s.x := rfl
@[simp] theorem State.advance_y (s : State) (n : ModeName) : (s.advance n).y = s.y := rfl
@[simp] theorem State.advance_pc (s : State) (n : ModeName) : (s.advance n).pc = s.pc + BitVec.ofNat 16 n.length := rfl
@[simp] theorem State.advance_sp (s : State) (n : ModeName) : (s.advance n).sp = s.sp := rfl
@[simp] theorem State.advance_p (s : State) (n : ModeName) : (s.advance n).p = s.p := rfl
@[simp] theorem State.advance_mem (s : State) (n : ModeName) : (s.advance n).mem = s.mem := rfl
@[simp] theorem State.advance_run (s : State) (n : ModeName) : (s.advance n).run = s.run := rfl
@[simp] theorem State.advance_log (s : State) (n : ModeName) : (s.advance n).log = s.log := rfl
@[simp] theorem State.advance_draws (s : State) (n : ModeName) : (s.advance n).draws = s.draws := rfl
@[simp] theorem State.advance_cfg (s : State) (n : ModeName) : (s.advance n).cfg = s.cfg := rfl

/-! ### raise -/

@[simp] theorem raise_a (start now : State) (e : HaltReason) : (raise start now e).a = start.a := rfl
@[simp] theorem raise_x (start now : State) (e : HaltReason) : (raise start now e).x = start.x := rfl
@[simp] theorem raise_y (start now : State) (e : HaltReason) : (raise start now e).y = start.y := rfl
@[simp] theorem raise_pc (start now : State) (e : HaltReason) : (raise start now e).pc = start.pc := rfl
@[simp] theorem raise_sp (start now : State) (e : HaltReason) : (raise start now e).sp = start.sp := rfl
@[simp] theorem raise_p (start now : State) (e : HaltReason) : (raise start now e).p = start.p := rfl
@[simp] theorem raise_mem (start now : State) (e : HaltReason) : (raise start now e).mem = start.mem := rfl
@[simp] theorem raise_run (start now : State) (e : HaltReason) : (raise start now e).run = .halted e := rfl
@[simp] theorem raise_log (start now : State) (e : HaltReason) : (raise start now e).log = start.log := rfl
@[simp] theorem raise_draws (start now : State) (e : HaltReason) : (raise start now e).draws = now.draws := rfl
@[simp] theorem raise_cfg (start now : State) (e : HaltReason) : (raise start now e).cfg = start.cfg := rfl

/-! ### haltBrk -/

@[simp] theorem haltBrk_a (s : State) (pc0 : Addr) : (haltBrk s pc0).a = s.a := rfl
@[simp] theorem haltBrk_x (s : State) (pc0 : Addr) : (haltBrk s pc0).x = s.x := rfl
@[simp] theorem haltBrk_y (s : State) (pc0 : Addr) : (haltBrk s pc0).y = s.y := rfl
@[simp] theorem haltBrk_pc (s : State) (pc0 : Addr) : (haltBrk s pc0).pc = s.pc := rfl
@[simp] theorem haltBrk_sp (s : State) (pc0 : Addr) : (haltBrk s pc0).sp = s.sp := rfl
@[simp] theorem haltBrk_p (s : State) (pc0 : Addr) : (haltBrk s pc0).p = s.p := rfl
@[simp] theorem haltBrk_mem (s : State) (pc0 : Addr) : (haltBrk s pc0).mem = s.mem := rfl
@[simp] theorem haltBrk_run (s : State) (pc0 : Addr) : (haltBrk s pc0).run = .halted (.brk pc0) := rfl
@[simp] theorem haltBrk_log (s : State) (pc0 : Addr) : (haltBrk s pc0).log = s.log := rfl
@[simp] theorem haltBrk_draws (s : State) (pc0 : Addr) : (haltBrk s pc0).draws = s.draws := rfl
@[simp] theorem haltBrk_cfg (s : State) (pc0 : Addr) : (haltBrk s pc0).cfg = s.cfg := rfl

end Sys2Proof.Machine
end

