-- ==== Sys2Proof/Laws/Bus.lean ====
section
/-!
SUPPORT. What the bus, the stack and the fetch can do, each said once.
-/

namespace Sys2Proof.Machine

/-! ### Reads -/

theorem ReadsOnly.refl (s : State) : ReadsOnly s s := rfl

theorem ReadsOnly.trans {s t u : State} (h : ReadsOnly s t) (k : ReadsOnly t u) : ReadsOnly s u := by
  unfold ReadsOnly at *
  rw [k, h]

theorem ReadsOnly.cfg_eq {s t : State} (h : ReadsOnly s t) : t.cfg = s.cfg := by rw [h]

theorem ReadsOnly.mem_eq {s t : State} (h : ReadsOnly s t) : t.mem = s.mem := by rw [h]

/-- A bus read changes the log and the draw counter at most, and never faults (R42, R55). -/
theorem busRead_readsOnly (s : State) (addr : Addr) : ReadsOnly s (busRead s addr).2 := by
  unfold busRead
  split
  · rfl
  · split <;> rfl

theorem readWordAt_readsOnly (s : State) (l h : Addr) : ReadsOnly s (readWordAt s l h).2 :=
  (busRead_readsOnly s l).trans (busRead_readsOnly _ h)

/-- Where an address reaches a cell, reading it gives the cell's byte and changes nothing (R44, R49, R55). -/
theorem busRead_of_cell {s : State} {addr : Addr} {n : Nat} (h : cellOf s.cfg addr = some n) :
    busRead s addr = (Memory.read s.mem n, s) := by
  unfold cellOf at h
  unfold busRead
  split at h
  · next hb => simp_all
  · next hb =>
    split at h
    · next hc => simp_all
    · cases h

/-- The pointer reads of the resolver change the log and the draw counter at most. -/
theorem resolve_readsOnly {m : Mode} {s t : State} {ea : Addr} (h : resolve m s = .ok (ea, t)) : ReadsOnly s t := by
  have key : ∀ {r : Addr × State}, r = (ea, t) → ReadsOnly s r.2 → ReadsOnly s t := fun hr h => by
    rwa [hr] at h
  cases m <;> simp only [resolve, Except.ok.injEq, reduceCtorEq] at h
  case indirect => exact key h (readWordAt_readsOnly _ _ _)
  case indirectX => exact key h (readWordAt_readsOnly _ _ _)
  case indirectY zp => exact key h (readWordAt_readsOnly s (zext16 zp) (zext16 (zp + 1)))
  all_goals exact key h (ReadsOnly.refl _)

/-- The resolver answers for every mode but the two with no address (R104, R105, R117). -/
theorem resolve_ok (m : Mode) (s : State) (h1 : m ≠ .implied) (h2 : m ≠ .accumulator) :
    ∃ ea t, resolve m s = .ok (ea, t) := by
  cases m with
  | implied => exact absurd rfl h1
  | accumulator => exact absurd rfl h2
  | _ => exact ⟨_, _, rfl⟩

theorem fetchBytes_readsOnly (n : Nat) (s : State) (addr : Addr) : ReadsOnly s (fetchBytes s addr n).2 := by
  induction n generalizing s addr with
  | zero => rfl
  | succ n ih => exact (busRead_readsOnly s addr).trans (ih _ _)

/-- The fetch changes the log and the draw counter at most. -/
theorem fetchInstr_readsOnly (s : State) : ReadsOnly s (fetchInstr s).2 := by
  simp only [fetchInstr]
  have h1 := busRead_readsOnly s s.pc
  have h2 := h1.trans (busRead_readsOnly (busRead s s.pc).2 (s.pc + 1))
  cases opcodeForm (busRead s s.pc).1 with
  | none => exact h1
  | some form =>
    cases form with
    | bare i => exact h1
    | withByte build => exact h2
    | withWord build => exact h2.trans (busRead_readsOnly _ (s.pc + 2))

/-! ### Writes -/

/-- Where an address reaches a cell, writing it writes that cell (R43, R44, R49). -/
theorem busWrite_of_cell {s : State} {addr : Addr} {n : Nat} (v : Byte) (h : cellOf s.cfg addr = some n) :
    busWrite s addr v = .ok (s.setMem (Memory.write s.mem n v)) := by
  unfold cellOf at h
  unfold busWrite
  split at h
  · next hb => simp_all
  · next hb =>
    split at h
    · next hc => simp_all
    · cases h

/-- Everything a bus write can do when it does not fault: write the cell the address reaches, or log one event. -/
theorem busWrite_ok {s t : State} {addr : Addr} {v : Byte} (h : busWrite s addr v = .ok t) :
    (∃ n, cellOf s.cfg addr = some n ∧ t = s.setMem (Memory.write s.mem n v)) ∨
      (cellOf s.cfg addr = none ∧ ∃ e, t = s.logEvent e) := by
  unfold busWrite at h
  unfold cellOf
  split at h
  · next hb => simp_all
  · next hb =>
    split at h
    · simp_all
    · next hc => cases h; exact .inr ⟨by simp [hc], _, rfl⟩
    · next hc => cases h; exact .inr ⟨by simp [hc], _, rfl⟩
    · cases h

/-- A bus write faults exactly on the PRG window of the famicom map (R48). -/
theorem busWrite_error {s : State} {addr : Addr} {v : Byte} {e : HaltReason} (h : busWrite s addr v = .error e) :
    e = .romWrite addr v ∧ (∃ prg, s.cfg.bus = .famicom prg) ∧ busClass addr = .prg := by
  unfold busWrite at h
  split at h
  · cases h
  · next hb => split at h <;> simp_all

/-- A reached cell is one of the 65536 (R33). -/
theorem cellOf_lt {c : Config} {addr : Addr} {n : Nat} (h : cellOf c addr = some n) : n < 65536 := by
  unfold cellOf ramIndex at h
  split at h
  · cases h; exact addr.isLt
  · split at h
    · cases h; exact (addr &&& 0x07FF).isLt
    · cases h

/-! ### The stack -/

theorem stackAddr_toNat (sp : Byte) : (stackAddr sp).toNat = 256 + sp.toNat := by
  rw [stackAddr, wordOf, BitVec.toNat_append, ← Nat.shiftLeft_add_eq_or_of_lt sp.isLt]
  rfl

/-- Every stack address reaches its own cell in either map (R44, R56): page 1 lies inside the RAM window. -/
theorem cellOf_stackAddr (c : Config) (sp : Byte) : cellOf c (stackAddr sp) = some (256 + sp.toNat) := by
  have hn := stackAddr_toNat sp
  have hlt := sp.isLt
  unfold cellOf
  split
  · rw [hn]
  · have hclass : busClass (stackAddr sp) = .ram := by
      have : stackAddr sp ≤ 0x1FFF := by
        rw [BitVec.le_def, hn, show (0x1FFF : Addr).toNat = 8191 from rfl]
        omega
      rw [busClass, if_pos this]
    have hmask : (stackAddr sp &&& 0x07FF).toNat = 256 + sp.toNat := by
      rw [BitVec.toNat_and, hn, show (0x07FF : Addr).toNat = 2 ^ 11 - 1 from rfl, Nat.and_two_pow_sub_one_eq_mod]
      omega
    rw [if_pos hclass, ramIndex, hmask]

/-- What a push does (R56): it never faults and never logs. -/
theorem push_eq (s : State) (v : Byte) :
    push s v = .ok ((s.setMem (Memory.write s.mem (256 + s.sp.toNat) v)).setSp (s.sp - 1)) := by
  simp [push, busWrite_of_cell v (cellOf_stackAddr s.cfg s.sp)]

/-- What a pop does (R56). -/
theorem pop_eq (s : State) : pop s = (Memory.read s.mem (256 + (s.sp + 1).toNat), s.setSp (s.sp + 1)) := by
  have h : cellOf (s.setSp (s.sp + 1)).cfg (stackAddr (s.sp + 1)) = some (256 + (s.sp + 1).toNat) :=
    cellOf_stackAddr _ _
  rw [pop, busRead_of_cell h, State.setSp_mem]

/-! ### How a step ends -/

/-- The settled state: the state itself, or the start with `run` Halted by the fault (R101). -/
theorem settle_eq (start t : State) :
    settle start t = t ∨ ∃ e, t.run = .halted e ∧ e.isFault = true ∧ settle start t = raise start t e := by
  unfold settle
  split
  · next e he =>
    split
    · next hf => exact .inr ⟨e, he, hf, rfl⟩
    · exact .inl rfl
  · exact .inl rfl
  · exact .inl rfl

end Sys2Proof.Machine
end

