-- ==== Sys2Proof/Laws/Bytes.lean ====
section
/-!
SUPPORT. Byte order and extension told by numbers (R8, R52), and splitting a word against joining two bytes.
-/

namespace Sys2Proof.Machine

theorem wordOf_toNat (hi lo : Byte) : (wordOf hi lo).toNat = 256 * hi.toNat + lo.toNat := by
  have hlo := lo.isLt
  rw [wordOf, BitVec.toNat_append, ← Nat.shiftLeft_add_eq_or_of_lt hlo, Nat.shiftLeft_eq]
  omega

theorem lowByte_toNat (v : Addr) : (lowByte v).toNat = v.toNat % 256 := by
  simp [lowByte, BitVec.extractLsb'_toNat]

theorem highByte_toNat (v : Addr) : (highByte v).toNat = v.toNat / 256 := by
  have := v.isLt
  rw [highByte, BitVec.extractLsb'_toNat, Nat.shiftRight_eq_div_pow]
  omega

theorem zext16_toNat (v : Byte) : (zext16 v).toNat = v.toNat := by
  have := v.isLt
  rw [zext16, BitVec.toNat_setWidth]
  omega

theorem sext16_toInt (v : Byte) : (sext16 v).toInt = v.toInt := by
  rw [sext16, BitVec.toInt_signExtend_of_le (by decide)]

theorem wordOf_high_low (v : Addr) : wordOf (highByte v) (lowByte v) = v := by
  apply BitVec.eq_of_toNat_eq
  rw [wordOf_toNat, highByte_toNat, lowByte_toNat]
  omega

theorem lowByte_wordOf (hi lo : Byte) : lowByte (wordOf hi lo) = lo := by
  have := lo.isLt
  apply BitVec.eq_of_toNat_eq
  rw [lowByte_toNat, wordOf_toNat]
  omega

theorem highByte_wordOf (hi lo : Byte) : highByte (wordOf hi lo) = hi := by
  have := lo.isLt
  apply BitVec.eq_of_toNat_eq
  rw [highByte_toNat, wordOf_toNat]
  omega

end Sys2Proof.Machine
end

