-- ==== Sys2Proof/Laws/Draws.lean ====
section
/-!
SUPPORT. The numbering of PPU-window draws (R45, log entry 5) through bus reads and writes, the resolver and the fetch,
and what else leaves it alone.
-/

namespace Sys2Proof.Machine

theorem drawsOf_append (es fs : List BusEvent) : drawsOf (es ++ fs) = drawsOf es ++ drawsOf fs :=
  List.filterMap_append

/-- An update that keeps the log and the counter draws nothing. -/
theorem DrawsNumbered.of_eq {s t : State} (hl : t.log = s.log) (hd : t.draws = s.draws) : DrawsNumbered s t :=
  ⟨[], by simp [hl], by simp [hd, drawsOf], by simp [drawsOf]⟩

theorem DrawsNumbered.refl (s : State) : DrawsNumbered s s := .of_eq rfl rfl

theorem DrawsNumbered.trans {s t u : State} (h : DrawsNumbered s t) (k : DrawsNumbered t u) : DrawsNumbered s u := by
  obtain ⟨es, hl, hd, hv⟩ := h
  obtain ⟨fs, kl, kd, kv⟩ := k
  refine ⟨es ++ fs, by rw [kl, hl, List.append_assoc], ?_, fun n addr v hn => ?_⟩
  · rw [drawsOf_append, List.length_append]
    omega
  · rw [drawsOf_append] at hn
    by_cases hlt : n < (drawsOf es).length
    · exact hv n addr v (by rwa [List.getElem?_append_left hlt] at hn)
    · rw [List.getElem?_append_right (by omega)] at hn
      have := kv _ addr v hn
      rwa [hd, show s.draws + (drawsOf es).length + (n - (drawsOf es).length) = s.draws + n by omega] at this

/-- A read takes the next number if it is a PPU-window read and none otherwise (R42, R45). -/
theorem busRead_drawsNumbered (s : State) (addr : Addr) : DrawsNumbered s (busRead s addr).2 := by
  unfold busRead
  split
  · exact .refl s
  · split
    · exact .refl s
    · refine ⟨[.ppuRead addr (Config.ppuRead s.draws addr)], rfl, rfl, fun n a v hn => ?_⟩
      cases n with
      | zero => cases hn; rfl
      | succ n => cases hn
    · exact ⟨[.unmappedRead addr], rfl, rfl, fun n a v hn => by cases hn⟩
    · exact .refl s

/-- A write draws nothing (R43, R49). -/
theorem busWrite_drawsNumbered {s t : State} {addr : Addr} {v : Byte} (h : busWrite s addr v = .ok t) :
    DrawsNumbered s t := by
  unfold busWrite at h
  split at h
  · cases h; exact .of_eq rfl rfl
  · split at h <;> cases h
    · exact .of_eq rfl rfl
    · exact ⟨[.ppuWrite addr v], rfl, rfl, fun n a w hn => by cases hn⟩
    · exact ⟨[.unmappedWrite addr v], rfl, rfl, fun n a w hn => by cases hn⟩

theorem readWordAt_drawsNumbered (s : State) (l h : Addr) : DrawsNumbered s (readWordAt s l h).2 :=
  (busRead_drawsNumbered s l).trans (busRead_drawsNumbered _ h)

/-- The fetch numbers its reads one after another (R64). -/
theorem fetchInstr_drawsNumbered (s : State) : DrawsNumbered s (fetchInstr s).2 := by
  simp only [fetchInstr]
  have h1 := busRead_drawsNumbered s s.pc
  have h2 := h1.trans (busRead_drawsNumbered (busRead s s.pc).2 (s.pc + 1))
  cases opcodeForm (busRead s s.pc).1 with
  | none => exact h1
  | some form =>
    cases form with
    | bare i => exact h1
    | withByte build => exact h2
    | withWord build => exact h2.trans (busRead_drawsNumbered _ (s.pc + 2))

/-- The resolver's pointer reads are numbered (R113-R115). -/
theorem resolve_drawsNumbered {m : Mode} {s t : State} {ea : Addr} (h : resolve m s = .ok (ea, t)) :
    DrawsNumbered s t := by
  cases m <;> simp only [resolve, readZeroPagePointer, Except.ok.injEq, Prod.mk.injEq, reduceCtorEq] at h
  case indirect ptr =>
    have := readWordAt_drawsNumbered s ptr
      (if s.cfg.jmpIndirectPageWrap && lowByte ptr = 0xFF then ptr &&& 0xFF00 else ptr + 1)
    rwa [h] at this
  case indirectX zp =>
    have := readWordAt_drawsNumbered s (zext16 (zp + s.x)) (zext16 (zp + s.x + 1))
    rwa [h] at this
  case indirectY zp => exact h.2 ▸ readWordAt_drawsNumbered _ _ _
  all_goals exact h.2 ▸ .refl _

/-- The hook never lowers the counter (log entry 9). -/
theorem applyHook_draws_le (hook : Hook) (s : State) : s.draws ≤ (applyHook hook s).draws := by
  cases hook with
  | none => exact le_refl _
  | some h => exact le_max_left _ _

end Sys2Proof.Machine
end

