-- ==== Sys2Proof/Laws/Flags.lean ====
section
/-!
SUPPORT. Reading a flag, or any bit of the status byte, after each flag operation (R32, R120).
-/

namespace Sys2Proof.Machine

/-- The bit a flag stands in (R23). -/
def Flag.bit : Flag → Nat
  | .c => 0
  | .z => 1
  | .i => 2
  | .d => 3
  | .b => 4
  | .v => 6
  | .n => 7

/-- A flag's mask is the byte with the flag's bit alone (R23, R32). -/
theorem Flag.getLsbD_mask (f : Flag) (k : Nat) : f.mask.getLsbD k = decide (k = f.bit) := by
  by_cases hk : k < 8
  · cases f <;> interval_cases k <;> rfl
  · have : f.bit < 8 := by cases f <;> decide
    simp [BitVec.getLsbD_of_ge _ _ (not_lt.1 hk), show k ≠ f.bit by omega]

/-- The getter reads the flag's bit (R32). -/
theorem getFlag_eq (p : Byte) (f : Flag) : getFlag p f = p.getLsbD f.bit := by
  have hb : f.bit < 8 := by cases f <;> decide
  rw [getFlag, Bool.eq_iff_iff, decide_eq_true_iff]
  constructor
  · intro h
    have := congrArg (·.getLsbD f.bit) h
    simpa [Flag.getLsbD_mask] using this
  · intro h
    apply BitVec.eq_of_getLsbD_eq
    intro k _
    by_cases hk : k = f.bit
    · simp [hk, h, Flag.getLsbD_mask]
    · simp [Flag.getLsbD_mask, hk]

/-- The setter changes the flag's bit and no other (R32). -/
theorem getLsbD_setFlag (p : Byte) (f : Flag) (b : Bool) (k : Nat) :
    (setFlag p f b).getLsbD k = if k = f.bit then b else p.getLsbD k := by
  have hb : f.bit < 8 := by cases f <;> decide
  by_cases hk8 : k < 8
  · cases b <;>
      simp only [setFlag, if_true, Bool.false_eq_true, if_false, BitVec.getLsbD_or, BitVec.getLsbD_and,
        BitVec.getLsbD_not, Flag.getLsbD_mask, hk8, decide_true, Bool.true_and] <;>
      by_cases hk : k = f.bit <;> simp [hk]
  · have hne : k ≠ f.bit := by omega
    simp [BitVec.getLsbD_of_ge _ _ (not_lt.1 hk8), hne]

/-- Bit 7 by its mask (R31, R120). -/
theorem and_0x80_eq (v : Byte) : (v &&& 0x80 = 0x80) ↔ v.getLsbD 7 = true := by
  have h := getFlag_eq v .n
  rw [getFlag, Bool.eq_iff_iff, decide_eq_true_iff] at h
  exact h

/-- The Zero and Negative helper, bit by bit (R120). -/
theorem getLsbD_setZN (p v : Byte) (k : Nat) :
    (setZN p v).getLsbD k = if k = 7 then v.getLsbD 7 else if k = 1 then decide (v = 0) else p.getLsbD k := by
  rw [setZN, getLsbD_setFlag, getLsbD_setFlag]
  simp only [Flag.bit]
  congr 1
  exact Bool.eq_iff_iff.2 (by simpa using and_0x80_eq v)

end Sys2Proof.Machine
end

