-- ==== Sys2Proof/Laws/Forms.lean ====
section
/-!
SUPPORT. What each shape of meaning does (R122): one equation per shape and outcome, which proofs cite in place of
unfolding the shape.
-/

namespace Sys2Proof.Machine

/-! ### Writes and the program counter -/

/-- A bus write does not look at PC. -/
theorem busWrite_setPc (s : State) (pc addr : Addr) (v : Byte) :
    busWrite (s.setPc pc) addr v = (busWrite s addr v).map (·.setPc pc) := by
  unfold busWrite
  rw [State.setPc_cfg]
  split
  · rfl
  · split <;> rfl

theorem busWrite_advance (s : State) (n : ModeName) (addr : Addr) (v : Byte) :
    busWrite (s.advance n) addr v = (busWrite s addr v).map (·.advance n) := by
  unfold busWrite
  rw [State.advance_cfg]
  split
  · rfl
  · split <;> rfl

/-! ### Operands -/

@[simp] theorem locate_accumulator (s : State) : locate .accumulator s = .ok (.accumulator, s) := rfl

@[simp] theorem locate_immediate (s : State) (v : Byte) :
    locate (.immediate v) s = .ok (.fetched (s.pc + 1) v, s) := rfl

/-- Every other mode's operand is the cell at the resolved address (R118, R119). -/
theorem locate_cell {m : Mode} {s t : State} {ea : Addr} (hi : m.name ≠ .immediate) (ha : m ≠ .accumulator)
    (h : resolve m s = .ok (ea, t)) : locate m s = .ok (.cell ea, t) := by
  unfold locate
  split
  · exact absurd rfl ha
  · next he => rw [h] at he; cases he
  · exact absurd rfl hi
  · next hr => rw [h] at hr; cases hr; rfl

/-- Reading the operand where it stands gives the operand of `operandRead` (R118). -/
theorem readPlace_operandRead {m : Mode} {s t : State} {v : Byte} (h : operandRead m s = some (v, t)) :
    ∃ pl u, locate m s = .ok (pl, u) ∧ readPlace pl u = (v, t) := by
  by_cases ha : m = .accumulator
  · subst ha
    exact ⟨_, _, rfl, by simpa [operandRead, readPlace] using h⟩
  · by_cases hi : m.name = .immediate
    · cases m <;> simp only [Mode.name, reduceCtorEq] at hi
      exact ⟨_, _, rfl, by simpa [operandRead, readPlace] using h⟩
    · cases hr : resolve m s with
      | error e => cases m <;> simp_all [operandRead, Mode.name]
      | ok r =>
        refine ⟨_, _, locate_cell hi ha hr, ?_⟩
        cases m <;> simp_all [operandRead, Mode.name, readPlace]

/-- Reading an operand changes the log and the draw counter at most (R55). -/
theorem operandRead_readsOnly {m : Mode} {s t : State} {v : Byte} (h : operandRead m s = some (v, t)) :
    ReadsOnly s t := by
  have key : ∀ {ea : Addr} {u : State}, resolve m s = .ok (ea, u) → busRead u ea = (v, t) → ReadsOnly s t :=
    fun {ea u} hr hb => by
      have h1 := (resolve_readsOnly hr).trans (busRead_readsOnly u ea)
      rwa [hb] at h1
  by_cases ha : m = .accumulator
  · subst ha
    simp only [operandRead, Option.some.injEq, Prod.mk.injEq] at h
    exact h.2 ▸ ReadsOnly.refl s
  · by_cases hi : m.name = .immediate
    · cases m <;> simp only [Mode.name, reduceCtorEq] at hi
      simp only [operandRead, Option.some.injEq, Prod.mk.injEq] at h
      exact h.2 ▸ ReadsOnly.refl s
    · cases hr : resolve m s with
      | error e => cases m <;> simp_all [operandRead, Mode.name]
      | ok r => exact key hr (by cases m <;> simp_all [operandRead, Mode.name])

/-- Every mode but Implied has an operand to read. -/
theorem operandRead_some (m : Mode) (s : State) (h : m ≠ .implied) : ∃ v t, operandRead m s = some (v, t) := by
  cases m with
  | implied => exact absurd rfl h
  | _ => exact ⟨_, _, rfl⟩

/-! ### The shapes -/

theorem impliedForm_eq (s : State) (f : State → State) : impliedForm s f = .next (f (s.advance .implied)) := rfl

/-- A reading instruction gives its operand to `use` with PC past the instruction (R103, R118). -/
theorem readForm_eq {m : Mode} {s t : State} {v : Byte} (use : Byte → State → State)
    (h : operandRead m s = some (v, t)) : readForm m s use = .next (use v (t.advance m.name)) := by
  obtain ⟨pl, u, hl, hr⟩ := readPlace_operandRead h
  simp [readForm, hl, hr]

/-- A store whose bus write succeeds (R229-R231). -/
theorem storeForm_ok {m : Mode} {s t w : State} {ea : Addr} {v : Byte} (hi : m.name ≠ .immediate)
    (ha : m ≠ .accumulator) (h : resolve m s = .ok (ea, t)) (hw : busWrite t ea v = .ok w) :
    storeForm m s v = .next (w.advance m.name) := by
  simp [storeForm, locate_cell hi ha h, writePlace, busWrite_advance, hw, Except.map]

/-- A store whose bus write faults has no effect but the halt (R101, R263). -/
theorem storeForm_error {m : Mode} {s t : State} {ea : Addr} {v : Byte} {e : HaltReason}
    (hi : m.name ≠ .immediate) (ha : m ≠ .accumulator) (h : resolve m s = .ok (ea, t))
    (hw : busWrite t ea v = .error e) : storeForm m s v = .next (raise s t e) := by
  simp [storeForm, locate_cell hi ha h, writePlace, busWrite_advance, hw, Except.map]

/-- A read-modify-write of the accumulator (R105, R119). -/
theorem modifyForm_accumulator (s : State) (f : Byte → Byte → Byte × Byte) :
    modifyForm .accumulator s f =
      .next (((s.advance .accumulator).setA (f s.a s.p).1).setP (f s.a s.p).2) := rfl

/-- A read-modify-write of a cell whose bus write succeeds (R119). -/
theorem modifyForm_ok {m : Mode} {s t w : State} {ea : Addr} (f : Byte → Byte → Byte × Byte)
    (hi : m.name ≠ .immediate) (ha : m ≠ .accumulator) (h : resolve m s = .ok (ea, t))
    (hw : busWrite (busRead t ea).2 ea (f (busRead t ea).1 (busRead t ea).2.p).1 = .ok w) :
    modifyForm m s f = .next ((w.advance m.name).setP (f (busRead t ea).1 (busRead t ea).2.p).2) := by
  simp [modifyForm, locate_cell hi ha h, readPlace, writePlace, busWrite_advance, hw, Except.map]

/-- A read-modify-write whose bus write faults has no effect but the halt (R101, R263). -/
theorem modifyForm_error {m : Mode} {s t : State} {ea : Addr} {e : HaltReason} (f : Byte → Byte → Byte × Byte)
    (hi : m.name ≠ .immediate) (ha : m ≠ .accumulator) (h : resolve m s = .ok (ea, t))
    (hw : busWrite (busRead t ea).2 ea (f (busRead t ea).1 (busRead t ea).2.p).1 = .error e) :
    modifyForm m s f = .next (raise s (busRead t ea).2 e) := by
  simp [modifyForm, locate_cell hi ha h, readPlace, writePlace, busWrite_advance, hw, Except.map]

/-- A control transfer (R103, R116, R210). -/
theorem jumpForm_eq {m : Mode} {s t : State} {ea : Addr} (taken : Bool) (h : resolve m s = .ok (ea, t)) :
    jumpForm m s taken = .next (if taken then t.setPc ea else t.advance m.name) := by
  simp [jumpForm, h]

/-- A push of one register (R200, R201). -/
theorem pushForm_eq (s : State) (v : Byte) :
    pushForm s v =
      .next (((s.advance .implied).setMem (Memory.write s.mem (256 + s.sp.toNat) v)).setSp (s.sp - 1)) := by
  simp [pushForm, push_eq]

/-- A pull of one byte (R202, R203). -/
theorem pullForm_eq (s : State) (use : Byte → State → State) :
    pullForm s use =
      .next (use (Memory.read s.mem (256 + (s.sp + 1).toNat)) ((s.advance .implied).setSp (s.sp + 1))) := by
  rw [pullForm, pop_eq, State.advance_mem, State.advance_sp]

/-- A call (R211): both pushes land on the stack, the high byte first. -/
theorem callForm_eq {m : Mode} {s t : State} {ea : Addr} (h : resolve m s = .ok (ea, t)) :
    callForm m s = .next
      (((t.setMem (Memory.write (Memory.write t.mem (256 + t.sp.toNat) (highByte (s.pc + 2)))
        (256 + (t.sp - 1).toNat) (lowByte (s.pc + 2)))).setSp (t.sp - 1 - 1)).setPc ea) := by
  simp only [callForm, h, push_eq, State.setSp_sp, State.setSp_mem, State.setMem_mem]
  rfl

/-- The word popped (R212, R213). -/
theorem popWord_eq (s : State) :
    popWord s =
      (wordOf (Memory.read s.mem (256 + (s.sp + 1 + 1).toNat)) (Memory.read s.mem (256 + (s.sp + 1).toNat)),
        s.setSp (s.sp + 1 + 1)) := by
  simp only [popWord, pop_eq, State.setSp_mem, State.setSp_sp]
  rfl

end Sys2Proof.Machine
end

