-- ==== Sys2Proof/Laws/HostPort.lean ====
section
/-!
SUPPORT. The host's operations: a PRG image made of bytes reads as those bytes and is canonical, placing bytes keeps
a state well-formed, and the model's reset state is the host's launch of the blank image.
-/

namespace Sys2Proof.Machine

/-! ### PRG images -/

theorem mem_cellsFrom {bytes : List Byte} {start : Nat} {c : Nat × Byte} (h : c ∈ cellsFrom start bytes) :
    start ≤ c.1 ∧ c.1 < start + bytes.length ∧ c.2 ≠ 0 := by
  induction bytes generalizing start with
  | nil => cases h
  | cons v rest ih =>
    unfold cellsFrom at h
    split at h
    · have := ih h
      simp only [List.length_cons]
      exact ⟨by omega, by omega, this.2.2⟩
    · next hv =>
      rcases List.mem_cons.1 h with rfl | h
      · exact ⟨le_refl _, by simp, hv⟩
      · have := ih h
        simp only [List.length_cons]
        exact ⟨by omega, by omega, this.2.2⟩

theorem cellsFrom_pairwise (bytes : List Byte) (start : Nat) :
    (cellsFrom start bytes).Pairwise (fun c d => c.1 < d.1) := by
  induction bytes generalizing start with
  | nil => exact List.Pairwise.nil
  | cons v rest ih =>
    unfold cellsFrom
    split
    · exact ih _
    · exact List.pairwise_cons.2 ⟨fun d hd => (mem_cellsFrom hd).1, ih _⟩

/-- The sparse cells read as the bytes they were made from (R34, log entry 4). -/
theorem read_cellsFrom (bytes : List Byte) (start k : Nat) :
    Memory.read (cellsFrom start bytes) (start + k) = bytes.getD k 0x00 := by
  have below : ∀ (l : List Byte) (b n : Nat), n < b → Memory.read (cellsFrom b l) n = 0x00 := by
    intro l
    induction l with
    | nil => intros; rfl
    | cons v rest ih =>
      intro b n hn
      unfold cellsFrom
      split
      · exact ih _ _ (by omega)
      · simp [Memory.read, Nat.ne_of_gt hn, ih (b + 1) n (by omega)]
  induction bytes generalizing start k with
  | nil => rfl
  | cons v rest ih =>
    unfold cellsFrom
    cases k with
    | zero =>
      split
      · next hv => simpa [hv] using below rest (start + 1) start (by omega)
      · simp [Memory.read]
    | succ k =>
      have hk : start + (k + 1) = start + 1 + k := by omega
      split
      · rw [hk, ih]; rfl
      · rw [Memory.read, if_neg (by simp), hk, ih]; rfl

/-- An admitted image is canonical and reads as its bytes (R34, R47). -/
theorem prgOfBytes_ok {bytes : List Byte} {prg : PrgImage} (h : prgOfBytes bytes = .ok prg) :
    prg.wf = true ∧ prg.size.bytes = bytes.length ∧ ∀ k, prgByte prg k = bytes.getD k 0x00 := by
  have hread : ∀ k, Memory.read (cellsFrom 0 bytes) k = bytes.getD k 0x00 := fun k => by
    simpa using read_cellsFrom bytes 0 k
  have hwf : ∀ b, bytes.length = b → canonicalCells b (cellsFrom 0 bytes) = true := fun b hb =>
    (canonicalCells_iff b _).2
      ⟨fun c hc => ⟨by simpa [hb] using (mem_cellsFrom hc).2.1, (mem_cellsFrom hc).2.2⟩, cellsFrom_pairwise bytes 0⟩
  unfold prgOfBytes at h
  split at h
  · next hl => cases h; exact ⟨hwf _ hl, hl.symm, hread⟩
  · split at h
    · next hl => cases h; exact ⟨hwf _ hl, hl.symm, hread⟩
    · cases h

/-! ### The reset state -/

theorem cellsFrom_replicate_zero (n start : Nat) : cellsFrom start (List.replicate n 0x00) = [] := by
  induction n generalizing start with
  | zero => rfl
  | succ n ih => rw [List.replicate_succ, cellsFrom, if_pos rfl, ih]

/-- `State.reset` is the famicom launch (R303) of the blank 16 KB image with every other parameter at its default. -/
theorem launchFamicom_blank :
    launchFamicom resetConfig (List.replicate 16384 0x00) = .ok State.reset := by
  have hl : (List.replicate 16384 (0x00 : Byte)).length = PrgSize.bank16K.bytes := List.length_replicate
  simp only [launchFamicom, prgOfBytes, if_pos hl, cellsFrom_replicate_zero]
  rfl

end Sys2Proof.Machine
end

