-- ==== Sys2Proof/Laws/PerInstr.lean ====
section
/-!
SUPPORT. The per-instruction family `EncodedLength`: every instruction's encoding has the length of its mode, which is
1, 2 or 3, and begins with its opcode (R70, R71).
-/

namespace Sys2Proof.Laws.EncodedLength

/-- The encoding is the opcode and then the operand bytes its mode has (R70, R71). -/
def Statement (i : Instr) : Prop :=
  (encode i).head? = some i.opcode ∧ (encode i).length = i.length ∧ 1 ≤ i.length ∧ i.length ≤ 3

/-- A mode's operand bytes are its length less the opcode byte (R71). -/
theorem operandBytes_length (m : Mode) : m.operandBytes.length + 1 = m.name.length := by cases m <;> rfl

/-- Lengths are 1, 2 or 3 (R71). -/
theorem length_bounds (n : ModeName) : 1 ≤ n.length ∧ n.length ≤ 3 := by cases n <;> decide

theorem holds (i : Instr) : Statement i := ⟨rfl, operandBytes_length i.mode, length_bounds i.mode.name⟩

theorem adcImmediate (imm : Byte) : Statement (.adcImmediate imm) := holds _
theorem adcZeroPage (zp : Byte) : Statement (.adcZeroPage zp) := holds _
theorem adcZeroPageX (zp : Byte) : Statement (.adcZeroPageX zp) := holds _
theorem adcAbsolute (addr : Addr) : Statement (.adcAbsolute addr) := holds _
theorem adcAbsoluteX (addr : Addr) : Statement (.adcAbsoluteX addr) := holds _
theorem adcAbsoluteY (addr : Addr) : Statement (.adcAbsoluteY addr) := holds _
theorem adcIndirectX (zp : Byte) : Statement (.adcIndirectX zp) := holds _
theorem adcIndirectY (zp : Byte) : Statement (.adcIndirectY zp) := holds _
theorem sbcImmediate (imm : Byte) : Statement (.sbcImmediate imm) := holds _
theorem sbcZeroPage (zp : Byte) : Statement (.sbcZeroPage zp) := holds _
theorem sbcZeroPageX (zp : Byte) : Statement (.sbcZeroPageX zp) := holds _
theorem sbcAbsolute (addr : Addr) : Statement (.sbcAbsolute addr) := holds _
theorem sbcAbsoluteX (addr : Addr) : Statement (.sbcAbsoluteX addr) := holds _
theorem sbcAbsoluteY (addr : Addr) : Statement (.sbcAbsoluteY addr) := holds _
theorem sbcIndirectX (zp : Byte) : Statement (.sbcIndirectX zp) := holds _
theorem sbcIndirectY (zp : Byte) : Statement (.sbcIndirectY zp) := holds _
theorem andImmediate (imm : Byte) : Statement (.andImmediate imm) := holds _
theorem andZeroPage (zp : Byte) : Statement (.andZeroPage zp) := holds _
theorem andZeroPageX (zp : Byte) : Statement (.andZeroPageX zp) := holds _
theorem andAbsolute (addr : Addr) : Statement (.andAbsolute addr) := holds _
theorem andAbsoluteX (addr : Addr) : Statement (.andAbsoluteX addr) := holds _
theorem andAbsoluteY (addr : Addr) : Statement (.andAbsoluteY addr) := holds _
theorem andIndirectX (zp : Byte) : Statement (.andIndirectX zp) := holds _
theorem andIndirectY (zp : Byte) : Statement (.andIndirectY zp) := holds _
theorem oraImmediate (imm : Byte) : Statement (.oraImmediate imm) := holds _
theorem oraZeroPage (zp : Byte) : Statement (.oraZeroPage zp) := holds _
theorem oraZeroPageX (zp : Byte) : Statement (.oraZeroPageX zp) := holds _
theorem oraAbsolute (addr : Addr) : Statement (.oraAbsolute addr) := holds _
theorem oraAbsoluteX (addr : Addr) : Statement (.oraAbsoluteX addr) := holds _
theorem oraAbsoluteY (addr : Addr) : Statement (.oraAbsoluteY addr) := holds _
theorem oraIndirectX (zp : Byte) : Statement (.oraIndirectX zp) := holds _
theorem oraIndirectY (zp : Byte) : Statement (.oraIndirectY zp) := holds _
theorem eorImmediate (imm : Byte) : Statement (.eorImmediate imm) := holds _
theorem eorZeroPage (zp : Byte) : Statement (.eorZeroPage zp) := holds _
theorem eorZeroPageX (zp : Byte) : Statement (.eorZeroPageX zp) := holds _
theorem eorAbsolute (addr : Addr) : Statement (.eorAbsolute addr) := holds _
theorem eorAbsoluteX (addr : Addr) : Statement (.eorAbsoluteX addr) := holds _
theorem eorAbsoluteY (addr : Addr) : Statement (.eorAbsoluteY addr) := holds _
theorem eorIndirectX (zp : Byte) : Statement (.eorIndirectX zp) := holds _
theorem eorIndirectY (zp : Byte) : Statement (.eorIndirectY zp) := holds _
theorem bitZeroPage (zp : Byte) : Statement (.bitZeroPage zp) := holds _
theorem bitAbsolute (addr : Addr) : Statement (.bitAbsolute addr) := holds _
theorem aslAccumulator : Statement .aslAccumulator := holds _
theorem aslZeroPage (zp : Byte) : Statement (.aslZeroPage zp) := holds _
theorem aslZeroPageX (zp : Byte) : Statement (.aslZeroPageX zp) := holds _
theorem aslAbsolute (addr : Addr) : Statement (.aslAbsolute addr) := holds _
theorem aslAbsoluteX (addr : Addr) : Statement (.aslAbsoluteX addr) := holds _
theorem lsrAccumulator : Statement .lsrAccumulator := holds _
theorem lsrZeroPage (zp : Byte) : Statement (.lsrZeroPage zp) := holds _
theorem lsrZeroPageX (zp : Byte) : Statement (.lsrZeroPageX zp) := holds _
theorem lsrAbsolute (addr : Addr) : Statement (.lsrAbsolute addr) := holds _
theorem lsrAbsoluteX (addr : Addr) : Statement (.lsrAbsoluteX addr) := holds _
theorem rolAccumulator : Statement .rolAccumulator := holds _
theorem rolZeroPage (zp : Byte) : Statement (.rolZeroPage zp) := holds _
theorem rolZeroPageX (zp : Byte) : Statement (.rolZeroPageX zp) := holds _
theorem rolAbsolute (addr : Addr) : Statement (.rolAbsolute addr) := holds _
theorem rolAbsoluteX (addr : Addr) : Statement (.rolAbsoluteX addr) := holds _
theorem rorAccumulator : Statement .rorAccumulator := holds _
theorem rorZeroPage (zp : Byte) : Statement (.rorZeroPage zp) := holds _
theorem rorZeroPageX (zp : Byte) : Statement (.rorZeroPageX zp) := holds _
theorem rorAbsolute (addr : Addr) : Statement (.rorAbsolute addr) := holds _
theorem rorAbsoluteX (addr : Addr) : Statement (.rorAbsoluteX addr) := holds _
theorem bcc (disp : Byte) : Statement (.bcc disp) := holds _
theorem bcs (disp : Byte) : Statement (.bcs disp) := holds _
theorem beq (disp : Byte) : Statement (.beq disp) := holds _
theorem bne (disp : Byte) : Statement (.bne disp) := holds _
theorem bmi (disp : Byte) : Statement (.bmi disp) := holds _
theorem bpl (disp : Byte) : Statement (.bpl disp) := holds _
theorem bvc (disp : Byte) : Statement (.bvc disp) := holds _
theorem bvs (disp : Byte) : Statement (.bvs disp) := holds _
theorem cmpImmediate (imm : Byte) : Statement (.cmpImmediate imm) := holds _
theorem cmpZeroPage (zp : Byte) : Statement (.cmpZeroPage zp) := holds _
theorem cmpZeroPageX (zp : Byte) : Statement (.cmpZeroPageX zp) := holds _
theorem cmpAbsolute (addr : Addr) : Statement (.cmpAbsolute addr) := holds _
theorem cmpAbsoluteX (addr : Addr) : Statement (.cmpAbsoluteX addr) := holds _
theorem cmpAbsoluteY (addr : Addr) : Statement (.cmpAbsoluteY addr) := holds _
theorem cmpIndirectX (zp : Byte) : Statement (.cmpIndirectX zp) := holds _
theorem cmpIndirectY (zp : Byte) : Statement (.cmpIndirectY zp) := holds _
theorem cpxImmediate (imm : Byte) : Statement (.cpxImmediate imm) := holds _
theorem cpxZeroPage (zp : Byte) : Statement (.cpxZeroPage zp) := holds _
theorem cpxAbsolute (addr : Addr) : Statement (.cpxAbsolute addr) := holds _
theorem cpyImmediate (imm : Byte) : Statement (.cpyImmediate imm) := holds _
theorem cpyZeroPage (zp : Byte) : Statement (.cpyZeroPage zp) := holds _
theorem cpyAbsolute (addr : Addr) : Statement (.cpyAbsolute addr) := holds _
theorem incZeroPage (zp : Byte) : Statement (.incZeroPage zp) := holds _
theorem incZeroPageX (zp : Byte) : Statement (.incZeroPageX zp) := holds _
theorem incAbsolute (addr : Addr) : Statement (.incAbsolute addr) := holds _
theorem incAbsoluteX (addr : Addr) : Statement (.incAbsoluteX addr) := holds _
theorem decZeroPage (zp : Byte) : Statement (.decZeroPage zp) := holds _
theorem decZeroPageX (zp : Byte) : Statement (.decZeroPageX zp) := holds _
theorem decAbsolute (addr : Addr) : Statement (.decAbsolute addr) := holds _
theorem decAbsoluteX (addr : Addr) : Statement (.decAbsoluteX addr) := holds _
theorem inx : Statement .inx := holds _
theorem iny : Statement .iny := holds _
theorem dex : Statement .dex := holds _
theorem dey : Statement .dey := holds _
theorem pha : Statement .pha := holds _
theorem php : Statement .php := holds _
theorem pla : Statement .pla := holds _
theorem plp : Statement .plp := holds _
theorem jmpAbsolute (addr : Addr) : Statement (.jmpAbsolute addr) := holds _
theorem jmpIndirect (ptr : Addr) : Statement (.jmpIndirect ptr) := holds _
theorem jsr (addr : Addr) : Statement (.jsr addr) := holds _
theorem rts : Statement .rts := holds _
theorem rti : Statement .rti := holds _
theorem tax : Statement .tax := holds _
theorem tay : Statement .tay := holds _
theorem tsx : Statement .tsx := holds _
theorem txa : Statement .txa := holds _
theorem txs : Statement .txs := holds _
theorem tya : Statement .tya := holds _
theorem ldaImmediate (imm : Byte) : Statement (.ldaImmediate imm) := holds _
theorem ldaZeroPage (zp : Byte) : Statement (.ldaZeroPage zp) := holds _
theorem ldaZeroPageX (zp : Byte) : Statement (.ldaZeroPageX zp) := holds _
theorem ldaAbsolute (addr : Addr) : Statement (.ldaAbsolute addr) := holds _
theorem ldaAbsoluteX (addr : Addr) : Statement (.ldaAbsoluteX addr) := holds _
theorem ldaAbsoluteY (addr : Addr) : Statement (.ldaAbsoluteY addr) := holds _
theorem ldaIndirectX (zp : Byte) : Statement (.ldaIndirectX zp) := holds _
theorem ldaIndirectY (zp : Byte) : Statement (.ldaIndirectY zp) := holds _
theorem ldxImmediate (imm : Byte) : Statement (.ldxImmediate imm) := holds _
theorem ldxZeroPage (zp : Byte) : Statement (.ldxZeroPage zp) := holds _
theorem ldxZeroPageY (zp : Byte) : Statement (.ldxZeroPageY zp) := holds _
theorem ldxAbsolute (addr : Addr) : Statement (.ldxAbsolute addr) := holds _
theorem ldxAbsoluteY (addr : Addr) : Statement (.ldxAbsoluteY addr) := holds _
theorem ldyImmediate (imm : Byte) : Statement (.ldyImmediate imm) := holds _
theorem ldyZeroPage (zp : Byte) : Statement (.ldyZeroPage zp) := holds _
theorem ldyZeroPageX (zp : Byte) : Statement (.ldyZeroPageX zp) := holds _
theorem ldyAbsolute (addr : Addr) : Statement (.ldyAbsolute addr) := holds _
theorem ldyAbsoluteX (addr : Addr) : Statement (.ldyAbsoluteX addr) := holds _
theorem staZeroPage (zp : Byte) : Statement (.staZeroPage zp) := holds _
theorem staZeroPageX (zp : Byte) : Statement (.staZeroPageX zp) := holds _
theorem staAbsolute (addr : Addr) : Statement (.staAbsolute addr) := holds _
theorem staAbsoluteX (addr : Addr) : Statement (.staAbsoluteX addr) := holds _
theorem staAbsoluteY (addr : Addr) : Statement (.staAbsoluteY addr) := holds _
theorem staIndirectX (zp : Byte) : Statement (.staIndirectX zp) := holds _
theorem staIndirectY (zp : Byte) : Statement (.staIndirectY zp) := holds _
theorem stxZeroPage (zp : Byte) : Statement (.stxZeroPage zp) := holds _
theorem stxZeroPageY (zp : Byte) : Statement (.stxZeroPageY zp) := holds _
theorem stxAbsolute (addr : Addr) : Statement (.stxAbsolute addr) := holds _
theorem styZeroPage (zp : Byte) : Statement (.styZeroPage zp) := holds _
theorem styZeroPageX (zp : Byte) : Statement (.styZeroPageX zp) := holds _
theorem styAbsolute (addr : Addr) : Statement (.styAbsolute addr) := holds _
theorem clc : Statement .clc := holds _
theorem cld : Statement .cld := holds _
theorem cli : Statement .cli := holds _
theorem clv : Statement .clv := holds _
theorem sec : Statement .sec := holds _
theorem sed : Statement .sed := holds _
theorem sei : Statement .sei := holds _
theorem brk : Statement .brk := holds _
theorem nop : Statement .nop := holds _

end Sys2Proof.Laws.EncodedLength
end

