-- ==== Sys2Proof/Laws/Step.lean ====
section
/-!
SUPPORT. What the fetch and the step can do: a fetch that reads an instruction's bytes gives that instruction, and a
step is the meaning settled.
-/

namespace Sys2Proof.Machine

/-! ### Every instruction executes -/

/-- The outcome is a next state. -/
def Completes (r : Result) : Prop := ∃ u, r = .next u

theorem readForm_next (m : Mode) (s : State) (use : Byte → State → State) : Completes (readForm m s use) := by
  unfold readForm
  split <;> exact ⟨_, rfl⟩

theorem storeForm_next (m : Mode) (s : State) (v : Byte) : Completes (storeForm m s v) := by
  unfold storeForm
  split
  · exact ⟨_, rfl⟩
  · split <;> exact ⟨_, rfl⟩

theorem modifyForm_next (m : Mode) (s : State) (f : Byte → Byte → Byte × Byte) :
    Completes (modifyForm m s f) := by
  unfold modifyForm
  split
  · exact ⟨_, rfl⟩
  · simp only []
    split <;> exact ⟨_, rfl⟩

theorem jumpForm_next (m : Mode) (s : State) (taken : Bool) : Completes (jumpForm m s taken) := by
  unfold jumpForm
  split <;> exact ⟨_, rfl⟩

theorem callForm_next (m : Mode) (s : State) : Completes (callForm m s) := by
  cases h : resolve m s with
  | error e => exact ⟨_, by rw [callForm, h]⟩
  | ok r => exact ⟨_, callForm_eq h⟩

/-- Every instruction answers a next state on every state: a fault of the spec is taken (R260, log entry 1). -/
theorem exec_next (i : Instr) (s : State) : ∃ u, exec i s = .next u := by
  change Completes (exec i s)
  cases i <;> dsimp only [exec] <;> first
    | exact readForm_next _ _ _
    | exact modifyForm_next _ _ _
    | exact storeForm_next _ _ _
    | exact jumpForm_next _ _ _
    | exact callForm_next _ _
    | exact ⟨_, pushForm_eq _ _⟩
    | exact ⟨_, rfl⟩

/-! ### The fetch and the step -/

/-- Fetching as many bytes as the instruction they decode to is long is fetching that instruction (R100). -/
theorem fetchInstr_of_decode {s t : State} {i : Instr} {bytes : List Byte}
    (hf : fetchBytes s s.pc i.length = (bytes, t)) (hd : decode bytes = .ok (i, [])) :
    fetchInstr s = (.ok i, t) := by
  have h2 : s.pc + 1 + 1 = s.pc + 2 := by bv_omega
  have hl : i.length = 1 ∨ i.length = 2 ∨ i.length = 3 := by
    unfold Instr.length
    cases i.mode.name <;> simp [ModeName.length]
  cases ho : opcodeForm (busRead s s.pc).1 with
  | none =>
    rcases hl with hl | hl | hl <;> rw [hl] at hf <;> simp only [fetchBytes] at hf <;> cases hf <;>
      simp [decode, ho] at hd
  | some f =>
    cases f <;> rcases hl with hl | hl | hl <;> rw [hl] at hf <;> simp only [fetchBytes, h2] at hf <;> cases hf <;>
      simp [decode, ho] at hd <;> simp [fetchInstr, ho, hd]

/-- A step of a running core that fetched an instruction is that instruction's meaning, settled (R100, R101). -/
theorem step_of_fetch {s t u : State} {i : Instr} (hr : s.run = .running) (hf : fetchInstr s = (.ok i, t))
    (hu : exec i t = .next u) : step s = .next (settle s u) := by
  simp [step, hr, hf, hu]

/-- A step of a running core that fetched an undefined opcode is the fault alone (R101, R262). -/
theorem step_of_fetch_error {s t : State} {e : HaltReason} (hr : s.run = .running) (hf : fetchInstr s = (.error e, t)) :
    step s = .next (raise s t e) := by
  simp [step, hr, hf]

/-- A halted core does not step (R102). -/
theorem step_of_halted {s : State} {e : HaltReason} (hr : s.run = .halted e) : step s = .fault (.coreHalted e) := by
  simp [step, hr]

/-- A core that was never Reset does not step (R300). -/
theorem step_of_awaitingReset {s : State} (hr : s.run = .awaitingReset) : step s = .fault .notReset := by
  simp [step, hr]

/-- Only a running core steps (R35, R102, R300). -/
theorem running_of_step {s u : State} (h : step s = .next u) : s.run = .running := by
  cases hr : s.run with
  | awaitingReset => rw [step_of_awaitingReset hr] at h; cases h
  | running => rfl
  | halted e => rw [step_of_halted hr] at h; cases h

/-- A state that no fault halted stands. -/
theorem settle_of_not_faulted (s : State) {u : State} (h : u.run.faulted = false) : settle s u = u := by
  unfold settle
  cases hu : u.run with
  | awaitingReset => rfl
  | running => rfl
  | halted e => rw [hu] at h; exact if_neg (by simpa [RunState.faulted] using h)

/-- A state that a fault halted gives way to the state before the step, halted by that fault. -/
theorem settle_of_faulted (s : State) {u : State} (h : u.run.faulted = true) :
    settle s u = { s with run := u.run, draws := u.draws } := by
  unfold settle
  cases hu : u.run with
  | awaitingReset => rw [hu] at h; cases h
  | running => rw [hu] at h; cases h
  | halted e => rw [hu] at h; exact if_pos h

end Sys2Proof.Machine
end

