-- ==== Sys2Proof/Tests/Slice0.lean ====
section
/-!
SUPPORT. Tests of the model and witnesses of the statements. Every expected value is the spec's: section 1 (W1-W11),
section 2 and the single steps of section 3 of spec/95_test_vectors.md, and for decoding the per-mnemonic list of R74.
-/

namespace Sys2Proof.Tests

open Machine

/-! ### Well-formedness: an ill-formed term for each check -/

/-- R74: no store to an immediate, no JSR through a pointer, no accumulator form of INC, no LDX by X. -/
theorem test_wf_form_not_in_the_table :
    Mnemonic.sta.admits .immediate = false ∧ Mnemonic.jsr.admits .indirect = false ∧
    Mnemonic.inc.admits .accumulator = false ∧ Mnemonic.ldx.admits .zeroPageX = false ∧
    Mnemonic.bcc.admits .absolute = false ∧ Mnemonic.nop.admits .immediate = false ∧
    Mnemonic.bit.admits .immediate = false ∧ Mnemonic.jmp.admits .absoluteX = false ∧
    Mnemonic.stx.admits .absoluteY = false ∧ Mnemonic.sty.admits .absoluteX = false ∧
    Mnemonic.asl.admits .indirectX = false ∧ Mnemonic.cpx.admits .zeroPageX = false ∧
    Mnemonic.ldy.admits .zeroPageY = false ∧ Mnemonic.adc.admits .zeroPageY = false := by decide

theorem test_wf_memory_unsorted : Memory.wf [(5, 1), (3, 1)] = false := by decide
theorem test_wf_memory_repeated : Memory.wf [(5, 1), (5, 2)] = false := by decide
theorem test_wf_memory_zero_byte : Memory.wf [(5, 0)] = false ∧ Memory.wf [(5, 0), (6, 1)] = false := by decide
theorem test_wf_memory_out_of_space : Memory.wf [(65536, 1)] = false ∧ Memory.wf [(65535, 1)] = true := by decide

/-- R34: no byte past the image's length. -/
theorem test_wf_image_past_its_length :
    PrgImage.wf { size := .bank16K, cells := [(0x4000, 1)] } = false ∧
    PrgImage.wf { size := .bank32K, cells := [(0x4000, 1)] } = true ∧
    PrgImage.wf { size := .bank32K, cells := [(0x8000, 1)] } = false := by decide

theorem test_wf_config :
    Config.wf { resetConfig with bus := .famicom { size := .bank16K, cells := [(1, 0)] } } = false ∧
    Config.wf { resetConfig with bus := .flat } = true := by decide

theorem test_wf_state :
    State.wf { State.reset with mem := [(2, 1), (1, 1)] } = false ∧
    State.wf { State.reset with cfg.bus := .famicom { size := .bank16K, cells := [(9, 1), (8, 1)] } } = false := by
  decide

/-! ### Decoding: every opcode of R74's per-mnemonic list, operands 0x12 or 0x1234 -/

theorem test_decode_adc :
    decode [0x69, 0x12] = .ok (.adcImmediate 0x12, []) ∧
    decode [0x65, 0x12] = .ok (.adcZeroPage 0x12, []) ∧
    decode [0x75, 0x12] = .ok (.adcZeroPageX 0x12, []) ∧
    decode [0x6D, 0x34, 0x12] = .ok (.adcAbsolute 0x1234, []) ∧
    decode [0x7D, 0x34, 0x12] = .ok (.adcAbsoluteX 0x1234, []) ∧
    decode [0x79, 0x34, 0x12] = .ok (.adcAbsoluteY 0x1234, []) ∧
    decode [0x61, 0x12] = .ok (.adcIndirectX 0x12, []) ∧
    decode [0x71, 0x12] = .ok (.adcIndirectY 0x12, []) := by decide

theorem test_decode_sbc :
    decode [0xE9, 0x12] = .ok (.sbcImmediate 0x12, []) ∧
    decode [0xE5, 0x12] = .ok (.sbcZeroPage 0x12, []) ∧
    decode [0xF5, 0x12] = .ok (.sbcZeroPageX 0x12, []) ∧
    decode [0xED, 0x34, 0x12] = .ok (.sbcAbsolute 0x1234, []) ∧
    decode [0xFD, 0x34, 0x12] = .ok (.sbcAbsoluteX 0x1234, []) ∧
    decode [0xF9, 0x34, 0x12] = .ok (.sbcAbsoluteY 0x1234, []) ∧
    decode [0xE1, 0x12] = .ok (.sbcIndirectX 0x12, []) ∧
    decode [0xF1, 0x12] = .ok (.sbcIndirectY 0x12, []) := by decide

theorem test_decode_and :
    decode [0x29, 0x12] = .ok (.andImmediate 0x12, []) ∧
    decode [0x25, 0x12] = .ok (.andZeroPage 0x12, []) ∧
    decode [0x35, 0x12] = .ok (.andZeroPageX 0x12, []) ∧
    decode [0x2D, 0x34, 0x12] = .ok (.andAbsolute 0x1234, []) ∧
    decode [0x3D, 0x34, 0x12] = .ok (.andAbsoluteX 0x1234, []) ∧
    decode [0x39, 0x34, 0x12] = .ok (.andAbsoluteY 0x1234, []) ∧
    decode [0x21, 0x12] = .ok (.andIndirectX 0x12, []) ∧
    decode [0x31, 0x12] = .ok (.andIndirectY 0x12, []) := by decide

theorem test_decode_ora :
    decode [0x09, 0x12] = .ok (.oraImmediate 0x12, []) ∧
    decode [0x05, 0x12] = .ok (.oraZeroPage 0x12, []) ∧
    decode [0x15, 0x12] = .ok (.oraZeroPageX 0x12, []) ∧
    decode [0x0D, 0x34, 0x12] = .ok (.oraAbsolute 0x1234, []) ∧
    decode [0x1D, 0x34, 0x12] = .ok (.oraAbsoluteX 0x1234, []) ∧
    decode [0x19, 0x34, 0x12] = .ok (.oraAbsoluteY 0x1234, []) ∧
    decode [0x01, 0x12] = .ok (.oraIndirectX 0x12, []) ∧
    decode [0x11, 0x12] = .ok (.oraIndirectY 0x12, []) := by decide

theorem test_decode_eor :
    decode [0x49, 0x12] = .ok (.eorImmediate 0x12, []) ∧
    decode [0x45, 0x12] = .ok (.eorZeroPage 0x12, []) ∧
    decode [0x55, 0x12] = .ok (.eorZeroPageX 0x12, []) ∧
    decode [0x4D, 0x34, 0x12] = .ok (.eorAbsolute 0x1234, []) ∧
    decode [0x5D, 0x34, 0x12] = .ok (.eorAbsoluteX 0x1234, []) ∧
    decode [0x59, 0x34, 0x12] = .ok (.eorAbsoluteY 0x1234, []) ∧
    decode [0x41, 0x12] = .ok (.eorIndirectX 0x12, []) ∧
    decode [0x51, 0x12] = .ok (.eorIndirectY 0x12, []) := by decide

theorem test_decode_bit :
    decode [0x24, 0x12] = .ok (.bitZeroPage 0x12, []) ∧
    decode [0x2C, 0x34, 0x12] = .ok (.bitAbsolute 0x1234, []) := by decide

theorem test_decode_asl :
    decode [0x0A] = .ok (.aslAccumulator, []) ∧
    decode [0x06, 0x12] = .ok (.aslZeroPage 0x12, []) ∧
    decode [0x16, 0x12] = .ok (.aslZeroPageX 0x12, []) ∧
    decode [0x0E, 0x34, 0x12] = .ok (.aslAbsolute 0x1234, []) ∧
    decode [0x1E, 0x34, 0x12] = .ok (.aslAbsoluteX 0x1234, []) := by decide

theorem test_decode_lsr :
    decode [0x4A] = .ok (.lsrAccumulator, []) ∧
    decode [0x46, 0x12] = .ok (.lsrZeroPage 0x12, []) ∧
    decode [0x56, 0x12] = .ok (.lsrZeroPageX 0x12, []) ∧
    decode [0x4E, 0x34, 0x12] = .ok (.lsrAbsolute 0x1234, []) ∧
    decode [0x5E, 0x34, 0x12] = .ok (.lsrAbsoluteX 0x1234, []) := by decide

theorem test_decode_rol :
    decode [0x2A] = .ok (.rolAccumulator, []) ∧
    decode [0x26, 0x12] = .ok (.rolZeroPage 0x12, []) ∧
    decode [0x36, 0x12] = .ok (.rolZeroPageX 0x12, []) ∧
    decode [0x2E, 0x34, 0x12] = .ok (.rolAbsolute 0x1234, []) ∧
    decode [0x3E, 0x34, 0x12] = .ok (.rolAbsoluteX 0x1234, []) := by decide

theorem test_decode_ror :
    decode [0x6A] = .ok (.rorAccumulator, []) ∧
    decode [0x66, 0x12] = .ok (.rorZeroPage 0x12, []) ∧
    decode [0x76, 0x12] = .ok (.rorZeroPageX 0x12, []) ∧
    decode [0x6E, 0x34, 0x12] = .ok (.rorAbsolute 0x1234, []) ∧
    decode [0x7E, 0x34, 0x12] = .ok (.rorAbsoluteX 0x1234, []) := by decide

theorem test_decode_bcc :
    decode [0x90, 0x12] = .ok (.bcc 0x12, []) := by decide

theorem test_decode_bcs :
    decode [0xB0, 0x12] = .ok (.bcs 0x12, []) := by decide

theorem test_decode_beq :
    decode [0xF0, 0x12] = .ok (.beq 0x12, []) := by decide

theorem test_decode_bne :
    decode [0xD0, 0x12] = .ok (.bne 0x12, []) := by decide

theorem test_decode_bmi :
    decode [0x30, 0x12] = .ok (.bmi 0x12, []) := by decide

theorem test_decode_bpl :
    decode [0x10, 0x12] = .ok (.bpl 0x12, []) := by decide

theorem test_decode_bvc :
    decode [0x50, 0x12] = .ok (.bvc 0x12, []) := by decide

theorem test_decode_bvs :
    decode [0x70, 0x12] = .ok (.bvs 0x12, []) := by decide

theorem test_decode_cmp :
    decode [0xC9, 0x12] = .ok (.cmpImmediate 0x12, []) ∧
    decode [0xC5, 0x12] = .ok (.cmpZeroPage 0x12, []) ∧
    decode [0xD5, 0x12] = .ok (.cmpZeroPageX 0x12, []) ∧
    decode [0xCD, 0x34, 0x12] = .ok (.cmpAbsolute 0x1234, []) ∧
    decode [0xDD, 0x34, 0x12] = .ok (.cmpAbsoluteX 0x1234, []) ∧
    decode [0xD9, 0x34, 0x12] = .ok (.cmpAbsoluteY 0x1234, []) ∧
    decode [0xC1, 0x12] = .ok (.cmpIndirectX 0x12, []) ∧
    decode [0xD1, 0x12] = .ok (.cmpIndirectY 0x12, []) := by decide

theorem test_decode_cpx :
    decode [0xE0, 0x12] = .ok (.cpxImmediate 0x12, []) ∧
    decode [0xE4, 0x12] = .ok (.cpxZeroPage 0x12, []) ∧
    decode [0xEC, 0x34, 0x12] = .ok (.cpxAbsolute 0x1234, []) := by decide

theorem test_decode_cpy :
    decode [0xC0, 0x12] = .ok (.cpyImmediate 0x12, []) ∧
    decode [0xC4, 0x12] = .ok (.cpyZeroPage 0x12, []) ∧
    decode [0xCC, 0x34, 0x12] = .ok (.cpyAbsolute 0x1234, []) := by decide

theorem test_decode_inc :
    decode [0xE6, 0x12] = .ok (.incZeroPage 0x12, []) ∧
    decode [0xF6, 0x12] = .ok (.incZeroPageX 0x12, []) ∧
    decode [0xEE, 0x34, 0x12] = .ok (.incAbsolute 0x1234, []) ∧
    decode [0xFE, 0x34, 0x12] = .ok (.incAbsoluteX 0x1234, []) := by decide

theorem test_decode_dec :
    decode [0xC6, 0x12] = .ok (.decZeroPage 0x12, []) ∧
    decode [0xD6, 0x12] = .ok (.decZeroPageX 0x12, []) ∧
    decode [0xCE, 0x34, 0x12] = .ok (.decAbsolute 0x1234, []) ∧
    decode [0xDE, 0x34, 0x12] = .ok (.decAbsoluteX 0x1234, []) := by decide

theorem test_decode_inx :
    decode [0xE8] = .ok (.inx, []) := by decide

theorem test_decode_iny :
    decode [0xC8] = .ok (.iny, []) := by decide

theorem test_decode_dex :
    decode [0xCA] = .ok (.dex, []) := by decide

theorem test_decode_dey :
    decode [0x88] = .ok (.dey, []) := by decide

theorem test_decode_pha :
    decode [0x48] = .ok (.pha, []) := by decide

theorem test_decode_php :
    decode [0x08] = .ok (.php, []) := by decide

theorem test_decode_pla :
    decode [0x68] = .ok (.pla, []) := by decide

theorem test_decode_plp :
    decode [0x28] = .ok (.plp, []) := by decide

theorem test_decode_jmp :
    decode [0x4C, 0x34, 0x12] = .ok (.jmpAbsolute 0x1234, []) ∧
    decode [0x6C, 0x34, 0x12] = .ok (.jmpIndirect 0x1234, []) := by decide

theorem test_decode_jsr :
    decode [0x20, 0x34, 0x12] = .ok (.jsr 0x1234, []) := by decide

theorem test_decode_rts :
    decode [0x60] = .ok (.rts, []) := by decide

theorem test_decode_rti :
    decode [0x40] = .ok (.rti, []) := by decide

theorem test_decode_tax :
    decode [0xAA] = .ok (.tax, []) := by decide

theorem test_decode_tay :
    decode [0xA8] = .ok (.tay, []) := by decide

theorem test_decode_tsx :
    decode [0xBA] = .ok (.tsx, []) := by decide

theorem test_decode_txa :
    decode [0x8A] = .ok (.txa, []) := by decide

theorem test_decode_txs :
    decode [0x9A] = .ok (.txs, []) := by decide

theorem test_decode_tya :
    decode [0x98] = .ok (.tya, []) := by decide

theorem test_decode_lda :
    decode [0xA9, 0x12] = .ok (.ldaImmediate 0x12, []) ∧
    decode [0xA5, 0x12] = .ok (.ldaZeroPage 0x12, []) ∧
    decode [0xB5, 0x12] = .ok (.ldaZeroPageX 0x12, []) ∧
    decode [0xAD, 0x34, 0x12] = .ok (.ldaAbsolute 0x1234, []) ∧
    decode [0xBD, 0x34, 0x12] = .ok (.ldaAbsoluteX 0x1234, []) ∧
    decode [0xB9, 0x34, 0x12] = .ok (.ldaAbsoluteY 0x1234, []) ∧
    decode [0xA1, 0x12] = .ok (.ldaIndirectX 0x12, []) ∧
    decode [0xB1, 0x12] = .ok (.ldaIndirectY 0x12, []) := by decide

theorem test_decode_ldx :
    decode [0xA2, 0x12] = .ok (.ldxImmediate 0x12, []) ∧
    decode [0xA6, 0x12] = .ok (.ldxZeroPage 0x12, []) ∧
    decode [0xB6, 0x12] = .ok (.ldxZeroPageY 0x12, []) ∧
    decode [0xAE, 0x34, 0x12] = .ok (.ldxAbsolute 0x1234, []) ∧
    decode [0xBE, 0x34, 0x12] = .ok (.ldxAbsoluteY 0x1234, []) := by decide

theorem test_decode_ldy :
    decode [0xA0, 0x12] = .ok (.ldyImmediate 0x12, []) ∧
    decode [0xA4, 0x12] = .ok (.ldyZeroPage 0x12, []) ∧
    decode [0xB4, 0x12] = .ok (.ldyZeroPageX 0x12, []) ∧
    decode [0xAC, 0x34, 0x12] = .ok (.ldyAbsolute 0x1234, []) ∧
    decode [0xBC, 0x34, 0x12] = .ok (.ldyAbsoluteX 0x1234, []) := by decide

theorem test_decode_sta :
    decode [0x85, 0x12] = .ok (.staZeroPage 0x12, []) ∧
    decode [0x95, 0x12] = .ok (.staZeroPageX 0x12, []) ∧
    decode [0x8D, 0x34, 0x12] = .ok (.staAbsolute 0x1234, []) ∧
    decode [0x9D, 0x34, 0x12] = .ok (.staAbsoluteX 0x1234, []) ∧
    decode [0x99, 0x34, 0x12] = .ok (.staAbsoluteY 0x1234, []) ∧
    decode [0x81, 0x12] = .ok (.staIndirectX 0x12, []) ∧
    decode [0x91, 0x12] = .ok (.staIndirectY 0x12, []) := by decide

theorem test_decode_stx :
    decode [0x86, 0x12] = .ok (.stxZeroPage 0x12, []) ∧
    decode [0x96, 0x12] = .ok (.stxZeroPageY 0x12, []) ∧
    decode [0x8E, 0x34, 0x12] = .ok (.stxAbsolute 0x1234, []) := by decide

theorem test_decode_sty :
    decode [0x84, 0x12] = .ok (.styZeroPage 0x12, []) ∧
    decode [0x94, 0x12] = .ok (.styZeroPageX 0x12, []) ∧
    decode [0x8C, 0x34, 0x12] = .ok (.styAbsolute 0x1234, []) := by decide

theorem test_decode_clc :
    decode [0x18] = .ok (.clc, []) := by decide

theorem test_decode_cld :
    decode [0xD8] = .ok (.cld, []) := by decide

theorem test_decode_cli :
    decode [0x58] = .ok (.cli, []) := by decide

theorem test_decode_clv :
    decode [0xB8] = .ok (.clv, []) := by decide

theorem test_decode_sec :
    decode [0x38] = .ok (.sec, []) := by decide

theorem test_decode_sed :
    decode [0xF8] = .ok (.sed, []) := by decide

theorem test_decode_sei :
    decode [0x78] = .ok (.sei, []) := by decide

theorem test_decode_brk :
    decode [0x00] = .ok (.brk, []) := by decide

theorem test_decode_nop :
    decode [0xEA] = .ok (.nop, []) := by decide

/-- R76: the first and last listed values, and three that neighbour a defined form. -/
theorem test_decode_undefined :
    decode [0x02] = .error (.undefinedOpcode 0x02) ∧ decode [0xFF, 0, 0] = .error (.undefinedOpcode 0xFF) ∧
    decode [0x9E, 0, 0] = .error (.undefinedOpcode 0x9E) ∧ decode [0x89, 0] = .error (.undefinedOpcode 0x89) ∧
    decode [0x80, 0] = .error (.undefinedOpcode 0x80) := by decide

theorem test_undefinedOpcodes_count : undefinedOpcodes.length = 105 := by decide

/-- An instruction's bytes cut short are no instruction. -/
theorem test_decode_truncated :
    decode [] = .error .noBytes ∧ decode [0xA9] = .error (.truncated 0xA9) ∧ decode [0x20, 0x30] = .error (.truncated 0x20) := by
  decide

theorem test_decodeTableWord :
    decodeTableWord 8 0xEA = some .nop ∧ decodeTableWord 16 0xC0A9 = some (.ldaImmediate 0xC0) ∧
    decodeTableWord 24 0x403020 = some (.jsr 0x4030) ∧ decodeTableWord 8 0xA9 = some (.ldaImmediate 0) ∧
    decodeTableWord 8 0x02 = none := by decide

/-- The syntax column of R78. -/
theorem test_assembly_text :
    (Instr.inx).text 0x0600 = "INX".toList ∧ (Instr.aslAccumulator).text 0x0600 = "ASL A".toList ∧
    (Instr.ldaImmediate 0xC0).text 0x0600 = "LDA #$C0".toList ∧ (Instr.ldxZeroPageY 0x10).text 0x0600 = "LDX $10,Y".toList ∧
    (Instr.jsr 0x4030).text 0x0600 = "JSR $4030".toList ∧ (Instr.jmpIndirect 0x12FF).text 0x0600 = "JMP ($12FF)".toList ∧
    (Instr.ldaIndirectX 0x20).text 0x0600 = "LDA ($20,X)".toList ∧
    (Instr.bne 0xFA).text 0x0608 = "BNE $0604".toList ∧
    (Instr.ldaIndirectY 0x20).text 0x0600 = "LDA ($20),Y".toList := by decide

/-! ### States of the tests -/

/-- The reset state in the flat map with PC at 0x0600, the vectors' default. -/
def flat : State := { State.reset with pc := 0x0600, cfg.bus := .flat }

/-- A state with the cells written. -/
def withCells (s : State) (cells : List (Nat × Byte)) : State :=
  s.setMem (cells.foldl (fun m c => Memory.write m c.1 c.2) s.mem)

/-- The next state of an outcome. -/
def next? : Result → Option State
  | .next u => some u
  | .fault _ => none
  | .refused _ => none

/-- One step over the bytes placed at PC. -/
def stepOn (s : State) (bytes : List Byte) : Option State := next? (step (placeNextInstr s bytes))

/-- The famicom map with a 16 KB image: a JMP at its start and the vector 0x8000. -/
def fam : State :=
  { State.reset with
    pc := 0x8000
    cfg.bus := .famicom
      { size := .bank16K, cells := [(0x0000, 0x4C), (0x0002, 0x40), (0x3FFD, 0x80)] } }

/-- The famicom map with a 32 KB image. -/
def fam32 : State :=
  { State.reset with
    cfg.bus := .famicom { size := .bank32K, cells := [(0x4000, 0x01), (0x7FFC, 0x34), (0x7FFD, 0x92)] } }

/-! ### The Z and N helper -/

theorem test_setZN_W1 :
    setZN 0x00 0x00 = 0x02 ∧ setZN 0x00 0x40 = 0x00 ∧ setZN 0x00 0x80 = 0x80 ∧ setZN 0x00 0x7F = 0x00 ∧
    setZN 0x00 0xFF = 0x80 ∧ setZN 0xFF 0x01 = 0x7D := by decide

/-! ### Arithmetic (2.1, 2.2) -/

theorem test_adc_W2 : (stepOn { flat with a := 0x02 } [0x69, 0x7F]).map (fun u => (u.a, u.p)) = some (0x81, 0xC0) := by
  decide

theorem test_adc_vectors :
    (addWithCarry 0x80 0x80 false = ⟨0x00, true, true⟩) ∧ (addWithCarry 0xFF 0xFF true = ⟨0xFF, true, false⟩) ∧
    (addWithCarry 0xD0 0x90 false = ⟨0x60, true, true⟩) ∧ (addWithCarry 0x7F 0xFF true = ⟨0x7F, true, false⟩) ∧
    (addWithCarry 0x01 0xFF false = ⟨0x00, true, false⟩) ∧ (addWithCarry 0x05 0x05 true = ⟨0x0B, false, false⟩) := by
  decide

theorem test_sbc_W4 :
    (stepOn { flat with a := 0x03, p := 0x01 } [0xE9, 0x02]).map (fun u => (u.a, u.p)) = some (0x01, 0x01) := by decide

theorem test_sbc_vectors :
    (subWithBorrow 0x80 0x01 true = ⟨0x7F, true, true⟩) ∧ (subWithBorrow 0x7F 0xFF true = ⟨0x80, false, true⟩) ∧
    (subWithBorrow 0x00 0x00 false = ⟨0xFF, false, false⟩) ∧ (subWithBorrow 0x50 0xD0 false = ⟨0x7F, false, false⟩) ∧
    (subWithBorrow 0x50 0xB0 true = ⟨0xA0, false, true⟩) ∧ (subWithBorrow 0xD0 0x90 false = ⟨0x3F, true, false⟩) := by
  decide

/-- P7: the decimal flag changes nothing. -/
theorem test_adc_decimal_inert :
    (stepOn { flat with a := 0x09, p := 0x08 } [0x69, 0x01]).map (fun u => (u.a, u.p)) = some (0x0A, 0x08) := by decide

/-! ### Logic (2.3) -/

theorem test_and : (stepOn { flat with a := 0xF3, p := 0x41 } [0x29, 0x0F]).map (fun u => (u.a, u.p)) = some (0x03, 0x41) := by
  decide
theorem test_ora : (stepOn { flat with a := 0x01 } [0x09, 0x80]).map (fun u => (u.a, u.p)) = some (0x81, 0x80) := by decide
theorem test_eor : (stepOn { flat with a := 0x5A } [0x49, 0x5A]).map (fun u => (u.a, u.p)) = some (0x00, 0x02) := by decide

theorem test_bit_zero_with_signs :
    (stepOn (withCells { flat with a := 0x0F, p := 0x01 } [(0x10, 0xF0)]) [0x24, 0x10]).map (fun u => (u.a, u.p)) =
      some (0x0F, 0xC3) := by decide
theorem test_bit_bit6 :
    (stepOn (withCells { flat with a := 0x01 } [(0x10, 0x41)]) [0x24, 0x10]).map (fun u => (u.a, u.p)) =
      some (0x01, 0x40) := by decide

/-! ### Shifts and rotates (2.4) -/

theorem test_asl_accumulator : (stepOn { flat with a := 0x80 } [0x0A]).map (fun u => (u.a, u.p)) = some (0x00, 0x03) := by
  decide
theorem test_asl_memory :
    (stepOn (withCells { flat with a := 0x77 } [(0x10, 0x81)]) [0x06, 0x10]).map
      (fun u => (Memory.read u.mem 0x10, u.p, u.a)) = some (0x02, 0x01, 0x77) := by decide
theorem test_lsr : (stepOn { flat with a := 0x00, p := 0x01 } [0x4A]).map (fun u => (u.a, u.p)) = some (0x00, 0x02) := by
  decide
theorem test_rol : (stepOn { flat with a := 0x40, p := 0x01 } [0x2A]).map (fun u => (u.a, u.p)) = some (0x81, 0x80) := by
  decide

/-- `ROL $8000` in the famicom map, the image's first byte 0x4C and C set: the fault carries the rotated byte. -/
theorem test_rol_rom :
    next? (exec (.rolAbsolute 0x8000) { fam with pc := 0x0000, p := 0x01 }) =
      some { fam with pc := 0x0000, p := 0x01, run := .halted (.romWrite 0x8000 0x99) } := by decide
theorem test_ror : (stepOn { flat with a := 0x01, p := 0x01 } [0x6A]).map (fun u => (u.a, u.p)) = some (0x80, 0x81) := by
  decide

/-! ### Branches (2.5) -/

theorem test_bcc_W7 :
    (stepOn flat [0x90, 0x02]).map (·.pc) = some 0x0604 ∧
    (stepOn { flat with p := 0x01 } [0x90, 0x02]).map (·.pc) = some 0x0602 := by decide
theorem test_bcs : (stepOn { flat with p := 0x01 } [0xB0, 0x02]).map (·.pc) = some 0x0604 := by decide
theorem test_beq :
    (stepOn flat [0xF0, 0x02]).map (·.pc) = some 0x0602 ∧
    (stepOn { flat with p := 0x02 } [0xF0, 0x02]).map (·.pc) = some 0x0604 := by decide
theorem test_bne :
    (stepOn flat [0xD0, 0xFE]).map (·.pc) = some 0x0600 ∧ (stepOn flat [0xD0, 0xFA]).map (·.pc) = some 0x05FC := by decide
theorem test_bmi :
    (stepOn { flat with p := 0x80 } [0x30, 0x00]).map (·.pc) = some 0x0602 ∧
    (stepOn { flat with p := 0x40 } [0x30, 0x10]).map (·.pc) = some 0x0602 := by decide
theorem test_bpl :
    (stepOn flat [0x10, 0x7F]).map (·.pc) = some 0x0681 ∧ (stepOn flat [0x10, 0x80]).map (·.pc) = some 0x0582 := by decide
theorem test_bpl_wrap : (stepOn { flat with pc := 0xFFF0 } [0x10, 0x7F]).map (·.pc) = some 0x0071 := by decide
theorem test_bvc : (stepOn { flat with p := 0x40 } [0x50, 0x04]).map (·.pc) = some 0x0602 := by decide
theorem test_bvs : (stepOn { flat with p := 0x40 } [0x70, 0x04]).map (·.pc) = some 0x0606 := by decide

/-! ### Compares, increments, decrements (2.6) -/

/-- C6: N comes from the difference. -/
theorem test_cmp_sign_of_difference :
    (stepOn { flat with a := 0x10 } [0xC9, 0x20]).map (fun u => (u.a, u.p)) = some (0x10, 0x80) ∧
    (stepOn { flat with a := 0xFF } [0xC9, 0x00]).map (·.p) = some 0x81 := by decide
theorem test_cmp_equal : (stepOn { flat with a := 0x40 } [0xC9, 0x40]).map (·.p) = some 0x03 := by decide
theorem test_cpx : (stepOn flat [0xE0, 0x01]).map (·.p) = some 0x80 := by decide
theorem test_cpy : (stepOn { flat with y := 0xFF } [0xC0, 0xFF]).map (·.p) = some 0x03 := by decide

theorem test_inc_wraps :
    (stepOn (withCells { flat with p := 0x01 } [(0x10, 0xFF)]) [0xE6, 0x10]).map
      (fun u => (Memory.read u.mem 0x10, u.p)) = some (0x00, 0x03) := by decide

/-- INC on the unmapped window: a read of 0x00, a dropped write of 0x01, and the flags of 0x01. -/
theorem test_inc_unmapped :
    (next? (exec (.incAbsolute 0x4000) fam)).map (fun u => (u.log, u.p, u.mem)) =
      some ([.unmappedRead 0x4000, .unmappedWrite 0x4000 0x01], 0x00, []) := by decide
theorem test_dec_wraps :
    (stepOn flat [0xC6, 0x10]).map (fun u => (Memory.read u.mem 0x10, u.p)) = some (0xFF, 0x80) := by decide
theorem test_inx : (stepOn { flat with x := 0xFF } [0xE8]).map (fun u => (u.x, u.p)) = some (0x00, 0x02) := by decide
theorem test_iny : (stepOn { flat with y := 0x7F } [0xC8]).map (fun u => (u.y, u.p)) = some (0x80, 0x80) := by decide
theorem test_dex : (stepOn { flat with x := 0x01 } [0xCA]).map (fun u => (u.x, u.p)) = some (0x00, 0x02) := by decide
theorem test_dey : (stepOn flat [0x88]).map (fun u => (u.y, u.p)) = some (0xFF, 0x80) := by decide

/-! ### The stack and jumps (2.7) -/

theorem test_pha_wraps :
    (stepOn { flat with a := 0x11, sp := 0x00 } [0x48]).map (fun u => (Memory.read u.mem 0x100, u.sp)) =
      some (0x11, 0xFF) := by decide
theorem test_php_raw :
    (stepOn { flat with p := 0xC3 } [0x08]).map (fun u => (Memory.read u.mem 0x1FF, u.sp)) = some (0xC3, 0xFE) := by decide
theorem test_pla_wraps :
    (stepOn (withCells flat [(0x100, 0x80)]) [0x68]).map (fun u => (u.a, u.sp, u.p)) = some (0x80, 0x00, 0x80) := by
  decide
theorem test_plp_every_bit :
    (stepOn (withCells { flat with sp := 0xFE } [(0x1FF, 0xFF)]) [0x28]).map (fun u => (u.p, u.sp)) =
      some (0xFF, 0xFF) := by decide
theorem test_jsr_W6 :
    (stepOn flat [0x20, 0x30, 0x40]).map
      (fun u => (u.pc, u.sp, Memory.read u.mem 0x1FF, Memory.read u.mem 0x1FE)) =
      some (0x4030, 0xFD, 0x06, 0x02) := by decide
theorem test_jsr_stack_wraps :
    (stepOn { flat with sp := 0x00 } [0x20, 0x00, 0x80]).map
      (fun u => (u.pc, u.sp, Memory.read u.mem 0x100, Memory.read u.mem 0x1FF)) =
      some (0x8000, 0xFE, 0x06, 0x02) := by decide
theorem test_rts_adds_one :
    (stepOn (withCells { flat with sp := 0xFE } [(0x1FF, 0xFF), (0x100, 0xFF)]) [0x60]).map (fun u => (u.pc, u.sp)) =
      some (0x0000, 0x00) := by decide
theorem test_rti_adds_nothing :
    (stepOn (withCells { flat with sp := 0xFC } [(0x1FD, 0x01), (0x1FF, 0x80)]) [0x40]).map
      (fun u => (u.p, u.pc, u.sp)) = some (0x01, 0x8000, 0xFF) := by decide
theorem test_jmp : (stepOn flat [0x4C, 0x00, 0x06]).map (·.pc) = some 0x0600 := by decide

/-- W11, in both settings of the parameter. -/
theorem test_jmp_indirect_W11 :
    (stepOn (withCells flat [(0x12FF, 0x34), (0x1300, 0x56), (0x1200, 0x78)]) [0x6C, 0xFF, 0x12]).map (·.pc) =
      some 0x5634 ∧
    (stepOn (withCells { flat with cfg.jmpIndirectPageWrap := true }
      [(0x12FF, 0x34), (0x1300, 0x56), (0x1200, 0x78)]) [0x6C, 0xFF, 0x12]).map (·.pc) = some 0x7834 := by decide

/-! ### Transfers, loads, stores, flags, BRK, NOP (2.8) -/

theorem test_tax : (stepOn { flat with x := 0x33 } [0xAA]).map (fun u => (u.x, u.p)) = some (0x00, 0x02) := by decide
theorem test_tay : (stepOn { flat with a := 0x80 } [0xA8]).map (fun u => (u.y, u.p)) = some (0x80, 0x80) := by decide
theorem test_tsx : (stepOn flat [0xBA]).map (fun u => (u.x, u.p)) = some (0xFF, 0x80) := by decide
theorem test_txs : (stepOn flat [0x9A]).map (fun u => (u.sp, u.p)) = some (0x00, 0x00) := by decide
theorem test_txa : (stepOn { flat with x := 0x7F } [0x8A]).map (fun u => (u.a, u.p)) = some (0x7F, 0x00) := by decide
theorem test_tya : (stepOn { flat with y := 0xFF } [0x98]).map (fun u => (u.a, u.p)) = some (0xFF, 0x80) := by decide
theorem test_lda_W9 :
    (stepOn (withCells { flat with x := 0x02 } [(0x0001, 0x5A), (0x0101, 0xA5)]) [0xB5, 0xFF]).map (·.a) =
      some 0x5A := by decide
theorem test_lda_W8 : (stepOn flat [0xA9, 0xC0]).map (fun u => (u.a, u.p, u.pc)) = some (0xC0, 0x80, 0x0602) := by decide
theorem test_ldx_zeroPageY_wraps :
    (stepOn (withCells { flat with y := 0x02 } [(0x0001, 0x9C)]) [0xB6, 0xFF]).map (fun u => (u.x, u.p)) =
      some (0x9C, 0x80) := by decide
theorem test_ldy_zeroPageX_wraps :
    (stepOn (withCells { flat with x := 0x90 } [(0x0010, 0x01)]) [0xB4, 0x80]).map (fun u => (u.y, u.p)) =
      some (0x01, 0x00) := by decide
theorem test_sta_mirror :
    (next? (exec (.staAbsolute 0x0800) { fam with a := 0x3C })).map (fun u => Memory.read u.mem 0) = some 0x3C := by decide
theorem test_sta_ppu :
    (next? (exec (.staAbsolute 0x2000) { fam with a := 0x3C })).map (fun u => (u.log, u.mem)) =
      some ([.ppuWrite 0x2000 0x3C], []) := by decide
theorem test_stx_unmapped :
    (next? (exec (.stxAbsolute 0x4017) { fam with x := 0x40 })).map (fun u => (u.log, u.mem)) =
      some ([.unmappedWrite 0x4017 0x40], []) := by decide
theorem test_sty_rom :
    next? (exec (.styAbsolute 0x8000) { fam with y := 0x01 }) =
      some { fam with y := 0x01, run := .halted (.romWrite 0x8000 0x01) } := by decide
theorem test_sty_absolute :
    (stepOn { flat with y := 0x21 } [0x8C, 0x34, 0x12]).map (fun u => Memory.read u.mem 0x1234) = some 0x21 := by decide

/-- LDA $2002: A is the drawn byte and the log holds it, whatever byte it is. -/
theorem test_lda_ppu :
    (next? (exec (.ldaAbsolute 0x2002) fam)).map (fun u => (u.a, u.log)) =
      some (Config.ppuRead 0 0x2002, [.ppuRead 0x2002 (Config.ppuRead 0 0x2002)]) := by rfl

theorem test_clear_flags :
    (stepOn { flat with p := 0xFF } [0x18]).map (·.p) = some 0xFE ∧
    (stepOn { flat with p := 0xFF } [0xD8]).map (·.p) = some 0xF7 ∧
    (stepOn { flat with p := 0xFF } [0x58]).map (·.p) = some 0xFB ∧
    (stepOn { flat with p := 0xFF } [0xB8]).map (·.p) = some 0xBF := by decide
theorem test_set_flags :
    (stepOn flat [0x38]).map (·.p) = some 0x01 ∧ (stepOn flat [0xF8]).map (·.p) = some 0x08 ∧
    (stepOn flat [0x78]).map (·.p) = some 0x04 := by decide
theorem test_brk :
    stepOn flat [0x00] = some { flat with pc := 0x0601, run := .halted (.brk 0x0600) } := by decide
theorem test_nop_wraps : (stepOn { flat with pc := 0xFFFF } [0xEA]).map (·.pc) = some 0x0000 := by decide

/-! ### Addressing modes (2.9) -/

theorem test_absoluteX_carries_and_wraps :
    (resolve (.absoluteX 0x12FF) { flat with x := 0x01 }).toOption.map (·.1) = some 0x1300 ∧
    (resolve (.absoluteX 0xFFFF) { flat with x := 0x02 }).toOption.map (·.1) = some 0x0001 ∧
    (resolve (.absoluteY 0x0200) { flat with y := 0xFF }).toOption.map (·.1) = some 0x02FF := by decide
theorem test_indirectX_wraps :
    (resolve (.indirectX 0xFE) (withCells { flat with x := 0x01 } [(0xFF, 0x34), (0x00, 0x12)])).toOption.map (·.1) =
      some 0x1234 ∧
    (resolve (.indirectX 0xF0) (withCells { flat with x := 0x20 } [(0x11, 0x05)])).toOption.map (·.1) =
      some 0x0500 := by decide
theorem test_indirectY_wraps :
    (resolve (.indirectY 0xFF) (withCells { flat with y := 0x01 } [(0x00, 0x04)])).toOption.map (·.1) = some 0x0401 ∧
    (resolve (.indirectY 0x40) (withCells { flat with y := 0x02 } [(0x40, 0xFF), (0x41, 0xFF)])).toOption.map (·.1) =
      some 0x0001 ∧
    (resolve (.indirectY 0x20) (withCells { flat with y := 0x10 } [(0x20, 0xF8), (0x21, 0x02)])).toOption.map (·.1) =
      some 0x0308 := by decide

/-- An instruction over the top of the space: its last byte is read from 0x0000. -/
theorem test_fetch_wraps :
    (stepOn (withCells { flat with pc := 0xFFFE } [(0x1234, 0x77)]) [0xAD, 0x34, 0x12]).map (fun u => (u.a, u.pc)) =
      some (0x77, 0x0001) := by decide

/-! ### The bus (2.10), Reset (2.11), faults (P4, P8) -/

theorem test_prg_mirror :
    (busRead fam 0x8000).1 = 0x4C ∧ (busRead fam 0xC000).1 = 0x4C ∧ (busRead fam 0xFFFD).1 = 0x80 ∧
    (busRead fam32 0xC000).1 = 0x01 ∧ (busRead fam32 0x8000).1 = 0x00 ∧ (busRead fam32 0xFFFC).1 = 0x34 := by decide
theorem test_word_read_over_the_mirror :
    (memRead2 (withCells fam [(0x07FF, 0xAB), (0x0000, 0xCD)]) 0x07FF).1 = 0xCDAB := by decide
theorem test_word_W10 :
    (memWrite2 fam 0x0800 0xBEEF).toOption.map
      (fun w => ((memRead2 w 0x0000).1, (memRead2 w 0x1800).1, Memory.read w.mem 0, Memory.read w.mem 1)) =
      some (0xBEEF, 0xBEEF, 0xEF, 0xBE) := by decide
theorem test_reset_vectors :
    (hostReset fam 0xFFFC).pc = 0x8000 ∧ (hostReset fam32 0xFFFC).pc = 0x9234 ∧
    (hostReset (withCells flat [(0x1001, 0x02)]) 0x1000).pc = 0x0200 := by decide

/-- P8 (a): JMP $4000, then the fetch there reads a logged 0x00 and halts as BRK. -/
theorem test_unmapped_fetch :
    (next? (step { fam with pc := 0x4000 })).map (fun u => (u.run, u.pc, u.log)) =
      some (.halted (.brk 0x4000), 0x4001, [.unmappedRead 0x4000]) := by decide

/-- P8 (b): an undefined opcode. -/
theorem test_illegal_opcode :
    stepOn { flat with a := 0x01, pc := 0x0602 } [0x02] =
      some { withCells { flat with a := 0x01, pc := 0x0602 } [(0x0602, 0x02)] with
        run := .halted (.illegalOpcode 0x02 0x0602) } := by decide

/-- R62: Load is refused in the famicom map. -/
theorem test_load_famicom :
    (match hostLoad fam [0xEA] 0x0600 with | .ok _ => none | .error e => some e) = some .loadInFamicomMap := by decide

/-- R278: BRK is the one normal end. -/
theorem test_ends :
    State.endedNormally { fam with run := .halted (.brk 0x0604) } = true ∧
    State.endedNormally { fam with run := .halted (.illegalOpcode 0x02 0x0602) } = false := by decide

/-- What empty memory does from reset (log entry 7): the first step is a BRK at 0x0000. -/
theorem test_first_step_from_reset :
    (next? (step State.reset)).map (fun u => (u.run, u.pc)) = some (.halted (.brk 0x0000), 0x0001) := by decide

/-! ### Witnesses: states and operands that meet the hypotheses of each statement of Obligations.lean -/

theorem test_witness_DecodeEncodeRoundTrip : (Instr.ldaIndirectY 0x20).wellFormed = true := by decide

theorem test_witness_EncodeDecodeRoundTrip : decode [0x9D, 0x00, 0x02, 0xEA] = .ok (.staAbsoluteX 0x0200, [0xEA]) := by
  decide

theorem test_witness_UndefinedOpcodeFaults :
    (0x02 : Byte) ∈ undefinedOpcodes ∧ (0xFF : Byte) ∈ undefinedOpcodes ∧
    (withCells flat [(0x0600, 0x02)]).run = .running ∧
    (busRead (withCells flat [(0x0600, 0x02)]) 0x0600).1 = 0x02 := by decide

theorem test_witness_OpcodeSelectsForm : (Instr.ldaImmediate 1).opcode = (Instr.ldaImmediate 2).opcode := by decide

/-- A step that runs and a step whose instruction faults on its last byte's fetch from ROM. -/
theorem test_witness_StepRunsDecodedInstr :
    (fetchBytes (placeNextInstr flat [0xA9, 0xC0]) 0x0600 2).1 = [0xA9, 0xC0] ∧
    (placeNextInstr flat [0xA9, 0xC0]).run = .running ∧
    decode [0xA9, 0xC0] = .ok (.ldaImmediate 0xC0, []) ∧
    ((next? (exec (.ldaImmediate 0xC0) flat)).map (·.run.faulted)) = some false ∧
    (fetchBytes (placeNextInstr fam [0x8D, 0x00, 0x80]) 0x8000 3).1 = [0x8D, 0x00, 0x80] ∧
    decode [0x8D, 0x00, 0x80] = .ok (.staAbsolute 0x8000, []) ∧
    ((next? (exec (.staAbsolute 0x8000) fam)).map (·.run.faulted)) = some true := by decide

theorem test_witness_HaltedCoreDoesNotStep :
    (State.run { flat with run := .halted (.brk 0x0604) }) = .halted (.brk 0x0604) ∧
    (createdState flat.cfg).run = .awaitingReset ∧ (next? (step fam)).isSome = true := by decide

/-- R300: before a Reset no step; after it the created core steps. -/
theorem test_created_core :
    next? (step (createdState fam.cfg)) = none ∧ next? (step (createdState flat.cfg)) = none ∧
    (runHost none 3 (createdState fam.cfg)) = createdState fam.cfg ∧
    (next? (step (hostReset (createdState fam.cfg) 0xFFFC))).map (·.pc) = some 0x4000 := by decide

/-- A step that faults, and the four ways a running step ends. -/
theorem test_witness_FaultedStepHasNoEffect :
    (stepOn { fam with a := 0x80 } [0x8D, 0x00, 0x80]).map (fun u => (u.run, u.run.faulted)) =
      some (.halted (.romWrite 0x8000 0x80), true) := by decide

theorem test_witness_RunningStepOutcome :
    (stepOn flat [0xEA]).map (·.run) = some .running ∧
    (stepOn flat [0x00]).map (·.run) = some (.halted (.brk 0x0600)) ∧
    (stepOn flat [0x02]).map (·.run) = some (.halted (.illegalOpcode 0x02 0x0600)) ∧
    (stepOn fam [0x8D, 0xFF, 0xFF]).map (·.run) = some (.halted (.romWrite 0xFFFF 0x00)) ∧
    romTarget fam.cfg 0xFFFF = true := by decide

/-- A well-formed state whose step writes memory; the invariants' hypotheses. -/
theorem test_witness_StepKeepsWellFormed :
    (placeNextInstr { flat with a := 0x11 } [0x8D, 0x34, 0x12]).wf = true ∧
    (stepOn { flat with a := 0x11 } [0x8D, 0x34, 0x12]).isSome = true ∧
    (placeNextInstr fam [0xE8]).wf = true ∧ (stepOn fam [0xE8]).isSome = true := by decide

theorem test_witness_StepKeepsConfiguration : (stepOn fam [0xA9, 0x01]).map (·.a) = some 0x01 := by decide

theorem test_witness_FlatMapHasNoEventsOrRomWrite :
    (placeNextInstr flat [0x8D, 0x00, 0x80]).cfg.bus = .flat ∧ (stepOn flat [0x8D, 0x00, 0x80]).isSome = true := by
  decide

/-- Memories that agree below 0x0800 and differ above it. -/
theorem test_witness_FamicomUpperStoreUnreachable :
    fam.cfg.bus = .famicom { size := .bank16K, cells := [(0x0000, 0x4C), (0x0002, 0x40), (0x3FFD, 0x80)] } ∧
    (∀ n < 0x0800, Memory.read [(0x0900, 0x77)] n = Memory.read fam.mem n) ∧
    (Memory.read [(0x0900, 0x77)] 0x0900 ≠ Memory.read fam.mem 0x0900) ∧ (next? (step fam)).isSome = true := by
  refine ⟨rfl, fun n hn => ?_, by decide, by decide⟩
  have h : Memory.read [(0x0900, 0x77)] n = 0x00 := if_neg (by omega)
  rw [h]; rfl

theorem test_witness_LogNeverAffectsExecution : (stepOn fam [0xAD, 0x00, 0x40]).map (·.log) = some [.unmappedRead 0x4000] := by
  decide

/-- Status bytes that differ in I, D, B and bit 5 alone. -/
theorem test_witness_StoredFlagsAreInert :
    (Instr.adcImmediate 0x01).mnemonic ≠ .php ∧ AgreeOn 0xC3 0x3C flat.p ∧
    (next? (exec (.adcImmediate 0x01) flat)).isSome = true := by
  exact ⟨by decide, by unfold AgreeOn; decide, by decide⟩

theorem test_witness_RegisterFrame :
    (Instr.sec).writesA = false ∧ (Instr.sec).writesX = false ∧ (Instr.sec).writesY = false ∧
    (Instr.sec).writesSp = false ∧ (next? (exec .sec flat)).isSome = true := by decide

theorem test_witness_StatusFrame :
    Mnemonic.nop.writesC = false ∧ Mnemonic.nop.writesZN = false ∧ Mnemonic.nop.writesI = false ∧
    Mnemonic.nop.writesD = false ∧ Mnemonic.nop.writesB = false ∧ Mnemonic.nop.writesV = false ∧
    (next? (exec .nop { flat with p := 0xFF })).isSome = true := by decide

/-- An instruction with stored cells and one with none. -/
theorem test_witness_MemoryFrame :
    storedCells (.jsr 0x4030) flat = [0x1FF, 0x1FE] ∧ storedCells (.incZeroPageX 0xFF) { flat with x := 2 } = [1] ∧
    storedCells (.staAbsolute 0x0800) fam = [0] ∧ storedCells (.ldaZeroPage 0x10) flat = [] ∧
    (next? (exec (.jsr 0x4030) flat)).isSome = true := by decide

/-- A step past the instruction, and a fault. -/
theorem test_witness_ProgramCounterRule :
    flat.run = .running ∧ (Instr.staAbsolute 0x8000).mnemonic.transfersControl = false ∧
    (next? (exec (.staAbsolute 0x8000) flat)).map (fun u => (u.pc, u.run.faulted)) = some (0x0603, false) ∧
    (next? (exec (.staAbsolute 0x8000) fam)).map (fun u => (u.pc, u.run.faulted)) = some (0x8000, true) := by decide

theorem test_witness_ArithmeticAndLogic :
    (Instr.adcIndirectY 0x20).mnemonic = .adc ∧ (Instr.sbcImmediate 0x02).mnemonic = .sbc ∧
    (Instr.andImmediate 0x0F).mnemonic = .and ∧ (Instr.oraZeroPage 0x10).mnemonic = .ora ∧
    (Instr.eorAbsolute 0x1234).mnemonic = .eor ∧ (Instr.bitZeroPage 0x10).mnemonic = .bit := by decide

/-- An accumulator form, a cell and a ROM address for the shifts and for INC and DEC. -/
theorem test_witness_ShiftRotateResults :
    (Instr.aslAccumulator).mode = .accumulator ∧ (Instr.rolZeroPage 0x10).mode ≠ .accumulator ∧
    (Instr.aslAccumulator).mnemonic = .asl ∧ (Instr.lsrAbsolute 0x7FFF).mnemonic = .lsr ∧
    (Instr.rolZeroPage 0x10).mnemonic = .rol ∧ (Instr.rorAbsolute 0x8000).mnemonic = .ror ∧
    romTarget fam.cfg 0x7FFF = false ∧ romTarget fam.cfg 0x8000 = true ∧ romTarget flat.cfg 0x8000 = false := by decide

theorem test_witness_IncDecMemoryResults :
    (Instr.incAbsolute 0x7FFF).mnemonic = .inc ∧ (Instr.decAbsolute 0x8000).mnemonic = .dec ∧
    romTarget fam.cfg 0x7FFF = false ∧ romTarget fam.cfg 0x8000 = true := by decide

theorem test_witness_CompareResults :
    (Instr.cmpImmediate 0x40).mnemonic = .cmp ∧ (Instr.cpxZeroPage 0x10).mnemonic = .cpx ∧
    (Instr.cpyAbsolute 0x1234).mnemonic = .cpy ∧ flat.a = 0x00 := by decide

/-- A taken and a not taken branch. -/
theorem test_witness_BranchResults :
    (Instr.bne 0xFA).mode = .relative 0xFA ∧ branchCondition .bne 0x00 = true ∧ branchCondition .bne 0x02 = false := by
  decide

/-- The pointer of a page's last byte, under both settings, and the space's last byte. -/
theorem test_witness_JmpResult :
    (0x12FF : Addr).toNat % 256 = 255 ∧ flat.cfg.jmpIndirectPageWrap = false ∧
    (stepOn (withCells flat [(0xFFFF, 0x34), (0x0000, 0x56), (0xFF00, 0x78)]) [0x6C, 0xFF, 0xFF]).map (·.pc) =
      some 0x5634 ∧
    (stepOn (withCells { flat with cfg.jmpIndirectPageWrap := true } [(0xFFFF, 0x34), (0x0000, 0x56), (0xFF00, 0x78)])
      [0x6C, 0xFF, 0xFF]).map (·.pc) = some 0x7834 := by decide

theorem test_witness_LoadResults :
    (Instr.ldaAbsolute 0x2002).mnemonic = .lda ∧ (Instr.ldxZeroPageY 0xFF).mnemonic = .ldx ∧
    (Instr.ldyZeroPageX 0x80).mnemonic = .ldy := by decide

theorem test_witness_StoreResults :
    (Instr.staAbsolute 0x7FFF).mnemonic = .sta ∧ (Instr.stxZeroPageY 0x10).mnemonic = .stx ∧
    (Instr.styAbsolute 0x8000).mnemonic = .sty ∧ romTarget fam.cfg 0x7FFF = false ∧
    romTarget fam.cfg 0x8000 = true := by decide

theorem test_witness_FlagInstrResults :
    (Instr.sei, 2, true) ∈ [(Instr.clc, 0, false), (.cld, 3, false), (.cli, 2, false), (.clv, 6, false),
      (.sec, 0, true), (.sed, 3, true), (.sei, 2, true)] := by decide

/-- The modes of the resolver's sentinel. -/
theorem test_witness_ResolverSentinelModes :
    (match resolve .implied flat with | .error e => some e | .ok _ => none) = some (.resolverSentinel 0x0600) ∧
    (match resolve .accumulator flat with | .error e => some e | .ok _ => none) = some (.resolverSentinel 0x0600) := by
  decide

/-- Both ends of each of the four windows, read. -/
theorem test_witness_FamicomBusRead :
    busRead fam 0x0000 = (0x00, fam) ∧ busRead (withCells fam [(0x07FF, 0x5A)]) 0x1FFF =
      (0x5A, withCells fam [(0x07FF, 0x5A)]) ∧
    busRead fam 0x4000 = (0x00, { fam with log := [.unmappedRead 0x4000] }) ∧
    busRead fam 0x7FFF = (0x00, { fam with log := [.unmappedRead 0x7FFF] }) ∧
    busRead fam 0x8000 = (0x4C, fam) ∧ busRead fam 0xFFFF = (0x00, fam) := by decide

theorem test_witness_FamicomBusRead_ppu :
    busRead fam 0x2000 = (Config.ppuRead 0 0x2000,
      { fam with log := [.ppuRead 0x2000 (Config.ppuRead 0 0x2000)], draws := 1 }) ∧
    busRead fam 0x3FFF = (Config.ppuRead 0 0x3FFF,
      { fam with log := [.ppuRead 0x3FFF (Config.ppuRead 0 0x3FFF)], draws := 1 }) := ⟨rfl, rfl⟩

/-- Both ends of the PPU window, a step that draws once, and a step that faults. -/
theorem test_witness_PpuReadsDrawAfresh :
    0x2000 ≤ (0x2000 : Addr).toNat ∧ (0x3FFF : Addr).toNat ≤ 0x3FFF ∧
    (busRead fam 0x2000).2.draws = 1 ∧ (busRead fam 0x3FFF).2.draws = 1 ∧
    (stepOn fam [0xAD, 0x02, 0x20]).map (fun u => (u.draws, u.run.faulted)) = some (1, false) ∧
    (stepOn fam [0x8D, 0x00, 0x80]).map (fun u => (u.draws, u.run.faulted)) = some (0, true) := by decide

/-- R45, R275: a hook's PPU-window read keeps its draw, so the core's next read is another; no hook lowers the counter. -/
theorem test_hook_draws :
    (applyHook (some fun s => (busRead s 0x2002).2) fam).draws = 1 ∧
    (busRead (applyHook (some fun s => (busRead s 0x2002).2) fam) 0x2002).1 = Config.ppuRead 1 0x2002 ∧
    (applyHook (some fun s => { s with draws := 0 }) { fam with draws := 5 }).draws = 5 := ⟨rfl, rfl, rfl⟩

/-- The state written or the fault. -/
def written (r : Except HaltReason State) : Option State × Option HaltReason :=
  match r with
  | .ok w => (some w, none)
  | .error e => (none, some e)

/-- Both ends of each of the four windows, written. -/
theorem test_witness_FamicomBusWrite :
    written (busWrite fam 0x1FFF 0x12) = (some { fam with mem := [(0x07FF, 0x12)] }, none) ∧
    written (busWrite fam 0x2000 0x12) = (some { fam with log := [.ppuWrite 0x2000 0x12] }, none) ∧
    written (busWrite fam 0x3FFF 0x12) = (some { fam with log := [.ppuWrite 0x3FFF 0x12] }, none) ∧
    written (busWrite fam 0x4000 0x12) = (some { fam with log := [.unmappedWrite 0x4000 0x12] }, none) ∧
    written (busWrite fam 0x7FFF 0x12) = (some { fam with log := [.unmappedWrite 0x7FFF 0x12] }, none) ∧
    written (busWrite fam 0x8000 0x12) = (none, some (.romWrite 0x8000 0x12)) ∧
    written (busWrite fam 0xFFFF 0x00) = (none, some (.romWrite 0xFFFF 0x00)) := by decide

theorem test_witness_FlatBusAccess :
    flat.cfg.bus = .flat ∧ written (busWrite flat 0xFFFF 0x12) = (some { flat with mem := [(0xFFFF, 0x12)] }, none) ∧
    written (busWrite { flat with mem := [(0xFFFF, 0x12)] } 0xFFFF 0x00) = (some flat, none) := by decide

theorem test_witness_RamMirror :
    ((2047 : Nat) < 2048 ∧ (3 : Nat) < 4) ∧ BitVec.ofNat 16 (2047 + 3 * 0x0800) = (0x1FFF : Addr) ∧
    stackAddr 0x00 = 0x0100 ∧ stackAddr 0xFF = 0x01FF := by decide

/-- Two addresses of one cell, and two of different cells, in both maps. -/
theorem test_witness_BusReadAfterWrite :
    cellOf fam.cfg 0x0001 = some 1 ∧ cellOf fam.cfg 0x1801 = some 1 ∧ cellOf fam.cfg 0x0002 = some 2 ∧
    cellOf flat.cfg 0xFFFF = some 65535 ∧ cellOf fam.cfg 0x2000 = none := by decide

/-- W10's word, and one that wraps over the end of RAM's first mirror. -/
theorem test_witness_WordWriteReadRoundTrip :
    cellOf fam.cfg 0x0800 = some 0 ∧ cellOf fam.cfg (0x0800 + 1) = some 1 ∧ cellOf fam.cfg 0x0000 = some 0 ∧
    cellOf fam.cfg (0x0000 + 1) = some 1 ∧ cellOf fam.cfg 0x07FF = some 2047 ∧ cellOf fam.cfg (0x07FF + 1) = some 0 := by
  decide

/-- A load that wraps over the top of the space, and the refusal's map. -/
theorem test_witness_HostLoadWritesProgram :
    flat.cfg.bus = .flat ∧
    (match hostLoad flat [0x11, 0x22, 0x33, 0x44] 0xFFFD with
      | .ok s => some (Memory.read s.mem 0xFFFC, Memory.read s.mem 0xFFFD, Memory.read s.mem 0xFFFE, Memory.read s.mem 0)
      | .error _ => none) = some (0xFD, 0xFF, 0x22, 0x44) ∧
    (match fam.cfg.bus with | .famicom _ => true | .flat => false) = true := by decide

/-- R61: of bytes that land on one cell the last stays. -/
theorem test_loadedByte :
    loadedByte [0x11, 0x22] 0xFFFF 0x0000 0x77 = 0x22 ∧ loadedByte [0x11, 0x22] 0xFFFF 0x0001 0x77 = 0x77 ∧
    (copyBytes [] 0xFFFF [0x11, 0x22]) = [(0x0000, 0x22), (0xFFFF, 0x11)] := by decide

/-- W8's program in the flat map: the launch enters it and the vector holds the load address. -/
theorem test_witness_FlatLaunchEntersProgram :
    resetConfig.resetVector = 0xFFFC ∧
    (match launchFlat resetConfig [0xA9, 0xC0, 0xAA, 0xE8, 0x00] with
      | .ok s => some (s.pc, Memory.read s.mem 0x0600, Memory.read s.mem 0x0603, Memory.read s.mem 0xFFFC,
          Memory.read s.mem 0xFFFD)
      | .error _ => none) = some (0x0600, 0xA9, 0xE8, 0x00, 0x06) := by decide

/-- Images of both lengths, and one of neither; the window's ends, and vectors at its ends that it holds whole. -/
theorem test_witness_FamicomLaunchEntersImage :
    (List.replicate 16380 (0x00 : Byte) ++ [0x00, 0x80, 0x00, 0x00]).length = 16384 ∧
    (List.replicate 32764 (0x00 : Byte) ++ [0x34, 0x92, 0x00, 0x00]).length = 32768 ∧
    ([0xEA] : List Byte).length ≠ 16384 ∧ ([0xEA] : List Byte).length ≠ 32768 ∧
    resetConfig.resetVector = 0xFFFC ∧ 0x8000 ≤ (0x8000 : Addr).toNat ∧ 0x8000 ≤ (0xFFFF : Addr).toNat ∧
    (0xFFFE : Addr).toNat < 0xFFFF := by
  refine ⟨?_, ?_, by decide, by decide, rfl, by decide, by decide, by decide⟩ <;> rw [List.length_append, List.length_replicate] <;> rfl

/-- A run that halts: one step of the blank machine; a hook that injects a byte and then a step; a hook that halts. -/
theorem test_witness_RunStopsAtHalt :
    (runHost none 1 State.reset).run = .halted (.brk 0x0000) ∧
    (next? (step (applyHook (some fun s => s.setMem [(0x0000, 0xE8)]) State.reset))).map (fun u => (u.x, u.run)) =
      some (0x01, .running) ∧
    (runHost (some fun s => s.setMem [(0x0000, 0xE8)]) 1 State.reset).x = 0x01 ∧
    (applyHook (some fun s => s.setRun (.halted (.brk 0x0604))) State.reset).run = .halted (.brk 0x0604) := by decide

end Sys2Proof.Tests
end

/-!
PROOFS. The family of the state: the invariant, the frames and the three independence statements (R20-R36, R39, R44).

All seven follow from one fact about the dispatch, `Simulation.exec`: a relation of two states that is kept by each
operation an instruction may use, on the registers and flags the spec lists it as a writer of, is kept by the
instruction. An invariant is such a relation inside the equality of states.
-/

namespace Sys2Proof.Machine

/-! ### What an instruction may write -/

/-- The mnemonics that write bit `k` of P (R24-R31). -/
def writesBit (mn : Mnemonic) : Nat → Bool
  | 0 => mn.writesC
  | 1 => mn.writesZN
  | 2 => mn.writesI
  | 3 => mn.writesD
  | 4 => mn.writesB
  | 5 => mn.writesB
  | 6 => mn.writesV
  | 7 => mn.writesZN
  | _ => false

/-- The registers and the bits of P an instruction is listed as a writer of (R20, R22, R24-R31). -/
structure Writes where
  a : Bool
  x : Bool
  y : Bool
  sp : Bool
  bit : Nat → Bool

/-- The writes the spec lists for the instruction. -/
def writesOf (i : Instr) : Writes := ⟨i.writesA, i.writesX, i.writesY, i.writesSp, writesBit i.mnemonic⟩

/-! ### The meaning of a mnemonic in a mode -/

/-- The 151 arms of `exec` as 56 meanings, each over the addressing mode (R122). -/
def meaning (mn : Mnemonic) (m : Mode) (s : State) : Result :=
  match mn with
  | .adc => addToA m s
  | .sbc => subFromA m s
  | .and => combineA (· &&& ·) m s
  | .ora => combineA (· ||| ·) m s
  | .eor => combineA (· ^^^ ·) m s
  | .bit => testBits m s
  | .asl => modifyForm m s aslOf
  | .lsr => modifyForm m s lsrOf
  | .rol => modifyForm m s rolOf
  | .ror => modifyForm m s rorOf
  | .inc => modifyForm m s incOf
  | .dec => modifyForm m s decOf
  | .bcc => jumpForm m s (!getFlag s.p .c)
  | .bcs => jumpForm m s (getFlag s.p .c)
  | .beq => jumpForm m s (getFlag s.p .z)
  | .bne => jumpForm m s (!getFlag s.p .z)
  | .bmi => jumpForm m s (getFlag s.p .n)
  | .bpl => jumpForm m s (!getFlag s.p .n)
  | .bvc => jumpForm m s (!getFlag s.p .v)
  | .bvs => jumpForm m s (getFlag s.p .v)
  | .cmp => compareWith s.a m s
  | .cpx => compareWith s.x m s
  | .cpy => compareWith s.y m s
  | .inx => execInx s
  | .iny => execIny s
  | .dex => execDex s
  | .dey => execDey s
  | .pha => pushForm s s.a
  | .php => pushForm s s.p
  | .pla => execPla s
  | .plp => execPlp s
  | .jmp => jumpForm m s true
  | .jsr => callForm m s
  | .rts => execRts s
  | .rti => execRti s
  | .tax => transferX s s.a
  | .tay => transferY s s.a
  | .tsx => transferX s s.sp
  | .txa => transferA s s.x
  | .txs => execTxs s
  | .tya => transferA s s.y
  | .lda => loadA m s
  | .ldx => loadX m s
  | .ldy => loadY m s
  | .sta => storeForm m s s.a
  | .stx => storeForm m s s.x
  | .sty => storeForm m s s.y
  | .clc => writeFlag s .c false
  | .cld => writeFlag s .d false
  | .cli => writeFlag s .i false
  | .clv => writeFlag s .v false
  | .sec => writeFlag s .c true
  | .sed => writeFlag s .d true
  | .sei => writeFlag s .i true
  | .brk => execBrk s
  | .nop => execNop s

theorem exec_eq_meaning (i : Instr) (s : State) : exec i s = meaning i.mnemonic i.mode s := by cases i <;> rfl

/-! ### Status bytes that agree on a mask -/

theorem agreeOn_iff {mask p q : Byte} :
    AgreeOn mask p q ↔ ∀ k, mask.getLsbD k = true → p.getLsbD k = q.getLsbD k := by
  constructor
  · intro h k hk
    simpa [hk] using congrArg (·.getLsbD k) h
  · intro h
    refine BitVec.eq_of_getLsbD_eq fun k _ => ?_
    cases hk : mask.getLsbD k with
    | false => simp [hk]
    | true => simp [hk, h k hk]

theorem agreeOn_full {p q : Byte} : AgreeOn 0xFF p q ↔ p = q := by
  rw [AgreeOn, show (0xFF : Byte) = BitVec.allOnes 8 from rfl, BitVec.and_allOnes, BitVec.and_allOnes]

/-- `p'` and `q'` agree on the mask, and `p'` differs from `p` only in bits that may be written. -/
structure StatusUpdate (w : Writes) (mask p p' q' : Byte) : Prop where
  agree : AgreeOn mask q' p'
  frame : ∀ k, w.bit k = false → p'.getLsbD k = p.getLsbD k

section
variable {w : Writes} {mask p p' q' : Byte}

theorem StatusUpdate.setFlag (h : StatusUpdate w mask p p' q') (f : Flag) (b : Bool) (hf : w.bit f.bit = true) :
    StatusUpdate w mask p (setFlag p' f b) (setFlag q' f b) where
  agree := agreeOn_iff.2 fun k hk => by
    rw [getLsbD_setFlag, getLsbD_setFlag, agreeOn_iff.1 h.agree k hk]
  frame k hk := by
    have hne : k ≠ f.bit := by
      rintro rfl
      exact nomatch hf.symm.trans hk
    rw [getLsbD_setFlag, if_neg hne, h.frame k hk]

theorem StatusUpdate.setZN (h : StatusUpdate w mask p p' q') (v : Byte) (hz : w.bit 1 = true) (hn : w.bit 7 = true) :
    StatusUpdate w mask p (setZN p' v) (setZN q' v) :=
  (h.setFlag .z _ hz).setFlag .n _ hn

/-- A whole byte may replace P where every bit may be written. -/
theorem StatusUpdate.whole (v : Byte) (hw : ∀ k < 8, w.bit k = true) : StatusUpdate w mask p v v where
  agree := rfl
  frame k hk := by
    have hge : 8 ≤ k := not_lt.1 fun hlt => nomatch (hw k hlt).symm.trans hk
    rw [BitVec.getLsbD_of_ge _ _ hge, BitVec.getLsbD_of_ge _ _ hge]

end

/-! ### Relations kept by every operation an instruction may use -/

/-- A relation of states with the same registers but P, the same P under the mask, the same run state, draws and
configuration, and the same bytes in the cells that addresses reach, that each allowed operation keeps. -/
structure Simulation (w : Writes) (mask : Byte) (R : State → State → Prop) : Prop where
  same : ∀ {s t}, R s t → t = { s with p := t.p, mem := t.mem, log := t.log }
  agree : ∀ {s t}, R s t → AgreeOn mask t.p s.p
  tested : ∀ k ∈ [0, 1, 6, 7], mask.getLsbD k = true
  cell : ∀ {s t addr n}, R s t → cellOf s.cfg addr = some n → Memory.read t.mem n = Memory.read s.mem n
  write : ∀ {s t addr n}, R s t → cellOf s.cfg addr = some n → ∀ v,
    R (s.setMem (Memory.write s.mem n v)) (t.setMem (Memory.write t.mem n v))
  logEvent : ∀ {s t}, R s t → ∀ e, R (s.logEvent e) (t.logEvent e)
  runDraws : ∀ {s t}, R s t → ∀ r n, R { s with run := r, draws := n } { t with run := r, draws := n }
  setPc : ∀ {s t}, R s t → ∀ v, R (s.setPc v) (t.setPc v)
  setA : w.a = true → ∀ {s t}, R s t → ∀ v, R (s.setA v) (t.setA v)
  setX : w.x = true → ∀ {s t}, R s t → ∀ v, R (s.setX v) (t.setX v)
  setY : w.y = true → ∀ {s t}, R s t → ∀ v, R (s.setY v) (t.setY v)
  setSp : w.sp = true → ∀ {s t}, R s t → ∀ v, R (s.setSp v) (t.setSp v)
  setP : ∀ {s t p q}, R s t → StatusUpdate w mask s.p p q → R (s.setP p) (t.setP q)

/-- Where the resolver has no address to give, no memory operand has a place (R117). -/
theorem locate_error {m : Mode} {s : State} {e : HaltReason} (ha : m ≠ .accumulator) (h : resolve m s = .error e) :
    locate m s = .error e := by
  unfold locate
  split
  · exact absurd rfl ha
  · next he => exact congrArg _ (Except.error.inj (he.symm.trans h))
  · next hr => rw [h] at hr; cases hr
  · next hr => rw [h] at hr; cases hr

/-- Both fault alike, or both answer and the answers are related. -/
def SameOutcome {α : Type} (Q : α → α → Prop) (r r' : Except HaltReason α) : Prop :=
  (∃ e, r = .error e ∧ r' = .error e) ∨ ∃ x y, r = .ok x ∧ r' = .ok y ∧ Q x y

/-- Both meanings answer next states, and these are related. -/
def BothNext (R : State → State → Prop) (r r' : Result) : Prop := ∃ u v, r = .next u ∧ r' = .next v ∧ R u v

namespace Simulation

section
variable {w : Writes} {mask : Byte} {R : State → State → Prop} (h : Simulation w mask R) {s t : State} (hR : R s t)
include h hR

/-! #### What the two states share -/

theorem a : t.a = s.a := by rw [h.same hR]
theorem x : t.x = s.x := by rw [h.same hR]
theorem y : t.y = s.y := by rw [h.same hR]
theorem pc : t.pc = s.pc := by rw [h.same hR]
theorem sp : t.sp = s.sp := by rw [h.same hR]
theorem run : t.run = s.run := by rw [h.same hR]
theorem draws : t.draws = s.draws := by rw [h.same hR]
theorem cfg : t.cfg = s.cfg := by rw [h.same hR]

/-- A tested flag reads the same in both. -/
theorem flag (f : Flag) (hf : f.bit ∈ [0, 1, 6, 7]) : getFlag t.p f = getFlag s.p f := by
  rw [getFlag_eq, getFlag_eq, agreeOn_iff.1 (h.agree hR) _ (h.tested _ hf)]

theorem status : StatusUpdate w mask s.p s.p t.p := ⟨h.agree hR, fun _ _ => rfl⟩

/-! #### The composed state operations -/

theorem advance (n : ModeName) : R (s.advance n) (t.advance n) := by
  rw [State.advance, State.advance, h.pc hR]
  exact h.setPc hR _

theorem countDraw : R s.countDraw t.countDraw := by
  rw [State.countDraw, State.countDraw, h.draws hR, h.run hR]
  exact h.runDraws hR _ _

theorem haltBrk (pc0 : Addr) : R (haltBrk s pc0) (haltBrk t pc0) := by
  rw [Machine.haltBrk, Machine.haltBrk, State.setRun, State.setRun, h.draws hR]
  exact h.runDraws hR _ _

theorem raise {s' t' : State} (hR' : R s' t') (e : HaltReason) : R (raise s s' e) (raise t t' e) := by
  rw [Machine.raise, Machine.raise, h.draws hR']
  exact h.runDraws hR _ _

theorem setZN (v : Byte) (hz : w.bit 1 = true) (hn : w.bit 7 = true) :
    R (s.setP (setZN s.p v)) (t.setP (Machine.setZN t.p v)) :=
  h.setP hR ((h.status hR).setZN v hz hn)

theorem settle {s' t' : State} (hR' : R s' t') : R (settle s s') (settle t t') := by
  unfold Machine.settle
  rw [h.run hR']
  split
  · split
    · exact h.raise hR hR' _
    · exact hR'
  · exact hR'
  · exact hR'

/-! #### The bus, the stack and the fetch -/

theorem busRead (addr : Addr) :
    (busRead t addr).1 = (busRead s addr).1 ∧ R (busRead s addr).2 (Machine.busRead t addr).2 := by
  unfold Machine.busRead
  rw [h.cfg hR, h.draws hR]
  cases hb : s.cfg.bus with
  | flat => exact ⟨h.cell hR (addr := addr) (by simp [cellOf, hb]), hR⟩
  | famicom prg =>
    cases hk : busClass addr with
    | ram => exact ⟨h.cell hR (addr := addr) (by simp [cellOf, hb, hk]), hR⟩
    | ppu => exact ⟨rfl, h.countDraw (h.logEvent hR _)⟩
    | unmapped => exact ⟨rfl, h.logEvent hR _⟩
    | prg => exact ⟨rfl, hR⟩

theorem busWrite (addr : Addr) (v : Byte) : SameOutcome R (busWrite s addr v) (Machine.busWrite t addr v) := by
  unfold Machine.busWrite
  rw [h.cfg hR]
  cases hb : s.cfg.bus with
  | flat => exact .inr ⟨_, _, rfl, rfl, h.write hR (addr := addr) (by simp [cellOf, hb]) v⟩
  | famicom prg =>
    cases hk : busClass addr with
    | ram => exact .inr ⟨_, _, rfl, rfl, h.write hR (addr := addr) (by simp [cellOf, hb, hk]) v⟩
    | ppu => exact .inr ⟨_, _, rfl, rfl, h.logEvent hR _⟩
    | unmapped => exact .inr ⟨_, _, rfl, rfl, h.logEvent hR _⟩
    | prg => exact .inl ⟨_, rfl, rfl⟩

theorem readWordAt (lo hi : Addr) :
    (readWordAt t lo hi).1 = (readWordAt s lo hi).1 ∧ R (readWordAt s lo hi).2 (Machine.readWordAt t lo hi).2 := by
  obtain ⟨hlo, hR₁⟩ := h.busRead hR lo
  obtain ⟨hhi, hR₂⟩ := h.busRead hR₁ hi
  exact ⟨congrArg₂ wordOf hhi hlo, hR₂⟩

/-- A push lands in a stack cell and moves SP (R56). -/
theorem push (hsp : w.sp = true) (v : Byte) :
    ∃ u u', push s v = .ok u ∧ Machine.push t v = .ok u' ∧ R u u' := by
  refine ⟨_, _, push_eq s v, push_eq t v, ?_⟩
  rw [h.sp hR]
  exact h.setSp hsp (h.write hR (cellOf_stackAddr s.cfg s.sp) v) _

theorem pop (hsp : w.sp = true) : (pop t).1 = (pop s).1 ∧ R (pop s).2 (Machine.pop t).2 := by
  rw [Machine.pop, Machine.pop, h.sp hR]
  exact h.busRead (h.setSp hsp hR _) _

theorem popWord (hsp : w.sp = true) : (popWord t).1 = (popWord s).1 ∧ R (popWord s).2 (Machine.popWord t).2 := by
  obtain ⟨hlo, hR₁⟩ := h.pop hR hsp
  obtain ⟨hhi, hR₂⟩ := h.pop hR₁ hsp
  exact ⟨congrArg₂ wordOf hhi hlo, hR₂⟩

theorem fetchInstr :
    (fetchInstr t).1 = (fetchInstr s).1 ∧ R (fetchInstr s).2 (Machine.fetchInstr t).2 := by
  obtain ⟨h0, hR₀⟩ := h.busRead hR s.pc
  obtain ⟨h1, hR₁⟩ := h.busRead hR₀ (s.pc + 1)
  obtain ⟨h2, hR₂⟩ := h.busRead hR₁ (s.pc + 2)
  simp only [Machine.fetchInstr, h.pc hR, h0]
  cases opcodeForm (Machine.busRead s s.pc).1 with
  | none => exact ⟨rfl, hR₀⟩
  | some form =>
    cases form with
    | bare i => exact ⟨rfl, hR₀⟩
    | withByte build => exact ⟨by rw [h1], hR₁⟩
    | withWord build => exact ⟨by rw [h1, h2], hR₂⟩

/-! #### Operands -/

theorem resolve (m : Mode) :
    SameOutcome (fun r r' => r'.1 = r.1 ∧ R r.2 r'.2) (resolve m s) (Machine.resolve m t) := by
  cases m with
  | implied => exact .inl ⟨_, rfl, by rw [← h.pc hR]; rfl⟩
  | accumulator => exact .inl ⟨_, rfl, by rw [← h.pc hR]; rfl⟩
  | immediate v => exact .inr ⟨_, _, rfl, rfl, by simp only [h.pc hR], hR⟩
  | zeroPage zp => exact .inr ⟨_, _, rfl, rfl, rfl, hR⟩
  | zeroPageX zp => exact .inr ⟨_, _, rfl, rfl, by simp only [h.x hR], hR⟩
  | zeroPageY zp => exact .inr ⟨_, _, rfl, rfl, by simp only [h.y hR], hR⟩
  | absolute addr => exact .inr ⟨_, _, rfl, rfl, rfl, hR⟩
  | absoluteX addr => exact .inr ⟨_, _, rfl, rfl, by simp only [h.x hR], hR⟩
  | absoluteY addr => exact .inr ⟨_, _, rfl, rfl, by simp only [h.y hR], hR⟩
  | indirect ptr =>
    refine .inr ⟨_, _, rfl, rfl, ?_⟩
    rw [h.cfg hR]
    exact h.readWordAt hR _ _
  | indirectX zp =>
    refine .inr ⟨_, _, rfl, rfl, ?_⟩
    rw [h.x hR]
    exact h.readWordAt hR _ _
  | indirectY zp =>
    obtain ⟨hbase, hR'⟩ := h.readWordAt hR (zext16 zp) (zext16 (zp + 1))
    exact .inr ⟨_, _, rfl, rfl, congrArg₂ (· + zext16 ·) hbase (h.y hR'), hR'⟩
  | relative disp => exact .inr ⟨_, _, rfl, rfl, by simp only [h.pc hR], hR⟩

/-- The operand stands at the same place, and in A only in the accumulator mode (R105). -/
theorem locate (m : Mode) :
    SameOutcome (fun r r' => r'.1 = r.1 ∧ R r.2 r'.2 ∧ (r.1 = .accumulator → m = .accumulator))
      (locate m s) (Machine.locate m t) := by
  by_cases ha : m = .accumulator
  · subst ha
    exact .inr ⟨_, _, rfl, rfl, rfl, hR, fun _ => rfl⟩
  rcases h.resolve hR m with ⟨e, hs, ht⟩ | ⟨⟨ea, s₁⟩, ⟨ea', t₁⟩, hs, ht, hea, hR₁⟩
  · exact .inl ⟨e, locate_error ha hs, locate_error ha ht⟩
  · obtain rfl : ea' = ea := hea
    by_cases hi : m.name = .immediate
    · cases m <;> cases hi
      exact .inr ⟨_, _, rfl, rfl, by simp only [h.pc hR], hR, nofun⟩
    · exact .inr ⟨_, _, locate_cell hi ha hs, locate_cell hi ha ht, rfl, hR₁, nofun⟩

theorem readPlace (pl : Place) :
    (readPlace pl t).1 = (readPlace pl s).1 ∧ R (readPlace pl s).2 (Machine.readPlace pl t).2 := by
  cases pl with
  | accumulator => exact ⟨h.a hR, hR⟩
  | fetched addr v => exact ⟨rfl, hR⟩
  | cell addr => exact h.busRead hR addr

theorem writePlace (pl : Place) (hpl : pl = .accumulator → w.a = true) (v : Byte) :
    SameOutcome R (writePlace pl v s) (Machine.writePlace pl v t) := by
  cases pl with
  | accumulator => exact .inr ⟨_, _, rfl, rfl, h.setA (hpl rfl) hR v⟩
  | fetched addr _ => exact h.busWrite hR addr v
  | cell addr => exact h.busWrite hR addr v

end
end Simulation

/-- A store to an operand leaves P alone. -/
theorem writePlace_p {pl : Place} {v : Byte} {s t : State} (h : writePlace pl v s = .ok t) : t.p = s.p := by
  have bus : ∀ {addr}, busWrite s addr v = .ok t → t.p = s.p := fun hb => by
    rcases busWrite_ok hb with ⟨n, _, rfl⟩ | ⟨_, e, rfl⟩ <;> rfl
  cases pl with
  | accumulator => cases h; rfl
  | fetched addr _ => exact bus h
  | cell addr => exact bus h

/-! ### The shapes of meaning keep the relation -/

namespace Simulation

section
variable {w : Writes} {mask : Byte} {R : State → State → Prop} (h : Simulation w mask R) {s t : State} (hR : R s t)
include h hR

theorem impliedForm {f g : State → State} (hf : ∀ {u v}, R u v → R (f u) (g v)) :
    BothNext R (impliedForm s f) (Machine.impliedForm t g) :=
  ⟨_, _, rfl, rfl, hf (h.advance hR _)⟩

theorem readForm (m : Mode) {f g : Byte → State → State} (hf : ∀ b {u v}, R u v → R (f b u) (g b v)) :
    BothNext R (readForm m s f) (Machine.readForm m t g) := by
  unfold Machine.readForm
  rcases h.locate hR m with ⟨e, hs, ht⟩ | ⟨⟨pl, s₁⟩, ⟨pl', t₁⟩, hs, ht, hpl, hR₁, -⟩
  · rw [hs, ht]
    exact ⟨_, _, rfl, rfl, h.raise hR hR e⟩
  · obtain rfl : pl' = pl := hpl
    obtain ⟨hv, hR₂⟩ := h.readPlace hR₁ pl'
    rw [hs, ht]
    refine ⟨_, _, rfl, rfl, ?_⟩
    rw [hv]
    exact hf _ (h.advance hR₂ _)

theorem storeForm (m : Mode) (hm : m = .accumulator → w.a = true) {v v' : Byte} (hv : v' = v) :
    BothNext R (storeForm m s v) (Machine.storeForm m t v') := by
  subst hv
  unfold Machine.storeForm
  rcases h.locate hR m with ⟨e, hs, ht⟩ | ⟨⟨pl, s₁⟩, ⟨pl', t₁⟩, hs, ht, hpl, hR₁, hacc⟩
  · rw [hs, ht]
    exact ⟨_, _, rfl, rfl, h.raise hR hR e⟩
  · obtain rfl : pl' = pl := hpl
    simp only [hs, ht]
    rcases h.writePlace (h.advance hR₁ m.name) pl' (hm ∘ hacc) v' with ⟨e, ws, wt⟩ | ⟨u, u', ws, wt, hR₂⟩
    · rw [ws, wt]
      exact ⟨_, _, rfl, rfl, h.raise hR hR₁ e⟩
    · rw [ws, wt]
      exact ⟨_, _, rfl, rfl, hR₂⟩

theorem modifyForm (m : Mode) (hm : m = .accumulator → w.a = true) {f : Byte → Byte → Byte × Byte}
    (hf : ∀ b {u v}, R u v → (f b v.p).1 = (f b u.p).1 ∧ StatusUpdate w mask u.p (f b u.p).2 (f b v.p).2) :
    BothNext R (modifyForm m s f) (Machine.modifyForm m t f) := by
  unfold Machine.modifyForm
  rcases h.locate hR m with ⟨e, hs, ht⟩ | ⟨⟨pl, s₁⟩, ⟨pl', t₁⟩, hs, ht, hpl, hR₁, hacc⟩
  · rw [hs, ht]
    exact ⟨_, _, rfl, rfl, h.raise hR hR e⟩
  · obtain rfl : pl' = pl := hpl
    obtain ⟨hv, hR₂⟩ := h.readPlace hR₁ pl'
    obtain ⟨hout, hst⟩ := hf (Machine.readPlace pl' s₁).1 hR₂
    simp only [hs, ht, hv, hout]
    rcases h.writePlace (h.advance hR₂ m.name) pl' (hm ∘ hacc) (f (Machine.readPlace pl' s₁).1 _).1 with
      ⟨e, ws, wt⟩ | ⟨u, u', ws, wt, hR₃⟩
    · rw [ws, wt]
      exact ⟨_, _, rfl, rfl, h.raise hR hR₂ e⟩
    · rw [ws, wt]
      refine ⟨_, _, rfl, rfl, h.setP hR₃ ?_⟩
      rwa [writePlace_p ws]

theorem jumpForm (m : Mode) {b b' : Bool} (hb : b' = b) : BothNext R (jumpForm m s b) (Machine.jumpForm m t b') := by
  subst hb
  unfold Machine.jumpForm
  rcases h.resolve hR m with ⟨e, hs, ht⟩ | ⟨⟨ea, s₁⟩, ⟨ea', t₁⟩, hs, ht, hea, hR₁⟩
  · rw [hs, ht]
    exact ⟨_, _, rfl, rfl, h.raise hR hR e⟩
  · obtain rfl : ea' = ea := hea
    rw [hs, ht]
    refine ⟨_, _, rfl, rfl, ?_⟩
    split
    · exact h.setPc hR₁ _
    · exact h.advance hR₁ _

theorem callForm (m : Mode) (hsp : w.sp = true) : BothNext R (callForm m s) (Machine.callForm m t) := by
  unfold Machine.callForm
  rw [h.pc hR]
  rcases h.resolve hR m with ⟨e, hs, ht⟩ | ⟨⟨ea, s₁⟩, ⟨ea', t₁⟩, hs, ht, hea, hR₁⟩
  · rw [hs, ht]
    exact ⟨_, _, rfl, rfl, h.raise hR hR e⟩
  · obtain rfl : ea' = ea := hea
    obtain ⟨s₂, t₂, hs₂, ht₂, hR₂⟩ := h.push hR₁ hsp (highByte (s.pc + 2))
    obtain ⟨s₃, t₃, hs₃, ht₃, hR₃⟩ := h.push hR₂ hsp (lowByte (s.pc + 2))
    simp only [hs, ht, hs₂, ht₂, hs₃, ht₃]
    exact ⟨_, _, rfl, rfl, h.setPc hR₃ _⟩

theorem pushForm (hsp : w.sp = true) {v v' : Byte} (hv : v' = v) :
    BothNext R (pushForm s v) (Machine.pushForm t v') := by
  subst hv
  obtain ⟨u, u', hs, ht, hR'⟩ := h.push (h.advance hR .implied) hsp v'
  simp only [Machine.pushForm, hs, ht]
  exact ⟨_, _, rfl, rfl, hR'⟩

theorem pullForm (hsp : w.sp = true) {f : Byte → State → State} (hf : ∀ b {u v}, R u v → R (f b u) (f b v)) :
    BothNext R (pullForm s f) (Machine.pullForm t f) := by
  obtain ⟨hv, hR'⟩ := h.pop (h.advance hR .implied) hsp
  refine ⟨_, _, rfl, rfl, ?_⟩
  rw [hv]
  exact hf _ hR'

/-! #### The meanings that several mnemonics share -/

/-- ADC and SBC: A takes the sum of `b` or of its inverse, and C, V, Z, N are its flags (R140, R141). -/
theorem setSum (b : Byte) (ha : w.a = true) (hc : w.bit 0 = true) (hz : w.bit 1 = true) (hv : w.bit 6 = true)
    (hn : w.bit 7 = true) :
    R ((s.setA (addWithCarry s.a b (getFlag s.p .c)).value).setP
        (sumStatus s.p (addWithCarry s.a b (getFlag s.p .c))))
      ((t.setA (addWithCarry t.a b (getFlag t.p .c)).value).setP
        (sumStatus t.p (addWithCarry t.a b (getFlag t.p .c)))) := by
  rw [h.a hR, h.flag hR .c (by decide)]
  exact h.setP (h.setA ha hR _) ((((h.status hR).setFlag .c _ hc).setFlag .v _ hv).setZN _ hz hn)

theorem combineA (f : Byte → Byte → Byte) (m : Mode) (ha : w.a = true) (hz : w.bit 1 = true) (hn : w.bit 7 = true) :
    BothNext R (combineA f m s) (Machine.combineA f m t) :=
  h.readForm hR m fun b _ _ hR' => by
    rw [h.a hR']
    exact h.setZN (h.setA ha hR' _) _ hz hn

theorem compareWith (m : Mode) {r r' : Byte} (hr : r' = r) (hc : w.bit 0 = true) (hz : w.bit 1 = true)
    (hn : w.bit 7 = true) : BothNext R (compareWith r m s) (Machine.compareWith r' m t) := by
  subst hr
  exact h.readForm hR m fun b _ _ hR' =>
    h.setP hR' ((((h.status hR').setFlag .c _ hc).setFlag .z _ hz).setFlag .n _ hn)

theorem writeFlag (f : Flag) (b : Bool) (hf : w.bit f.bit = true) :
    BothNext R (writeFlag s f b) (Machine.writeFlag t f b) :=
  h.impliedForm hR fun hR' => h.setP hR' ((h.status hR').setFlag f b hf)

theorem transferA {v v' : Byte} (hv : v' = v) (ha : w.a = true) (hz : w.bit 1 = true) (hn : w.bit 7 = true) :
    BothNext R (transferA s v) (Machine.transferA t v') := by
  subst hv
  exact h.impliedForm hR fun hR' => h.setZN (h.setA ha hR' _) _ hz hn

theorem transferX {v v' : Byte} (hv : v' = v) (hx : w.x = true) (hz : w.bit 1 = true) (hn : w.bit 7 = true) :
    BothNext R (transferX s v) (Machine.transferX t v') := by
  subst hv
  exact h.impliedForm hR fun hR' => h.setZN (h.setX hx hR' _) _ hz hn

theorem transferY {v v' : Byte} (hv : v' = v) (hy : w.y = true) (hz : w.bit 1 = true) (hn : w.bit 7 = true) :
    BothNext R (transferY s v) (Machine.transferY t v') := by
  subst hv
  exact h.impliedForm hR fun hR' => h.setZN (h.setY hy hR' _) _ hz hn

/-- The status byte of a shift: C, Z and N (R160-R163). -/
theorem shiftStatus (out : Bool) (r : Byte) (hc : w.bit 0 = true) (hz : w.bit 1 = true) (hn : w.bit 7 = true) :
    StatusUpdate w mask s.p (shiftStatus s.p out r) (Machine.shiftStatus t.p out r) :=
  ((h.status hR).setFlag .c out hc).setZN r hz hn

theorem execRts (hsp : w.sp = true) : BothNext R (execRts s) (Machine.execRts t) := by
  obtain ⟨hv, hR'⟩ := h.popWord hR hsp
  refine ⟨_, _, rfl, rfl, ?_⟩
  rw [hv]
  exact h.setPc hR' _

theorem execRti (hsp : w.sp = true) (hbits : ∀ k < 8, w.bit k = true) :
    BothNext R (execRti s) (Machine.execRti t) := by
  obtain ⟨hp, hR₁⟩ := h.pop hR hsp
  obtain ⟨hv, hR₂⟩ := h.popWord (h.setP hR₁ (.whole (Machine.pop s).1 hbits)) hsp
  refine ⟨_, _, rfl, rfl, ?_⟩
  rw [hp, hv]
  exact h.setPc hR₂ _

end

/-! ### Every instruction and every step keep the relation -/

/-- A relation kept by what the instruction may use is kept by the instruction. PHP reads all of P, so for PHP the mask
must be the whole byte. -/
theorem exec {i : Instr} {mask : Byte} {R : State → State → Prop} (h : Simulation (writesOf i) mask R)
    (hphp : i.mnemonic = .php → mask = 0xFF) {s t : State} (hR : R s t) :
    BothNext R (exec i s) (Machine.exec i t) := by
  rw [exec_eq_meaning, exec_eq_meaning]
  have hacc : i.mode = .accumulator → i.writesA = true := fun hm => by simp [Instr.writesA, hm]
  unfold writesOf Instr.writesA Instr.writesX Instr.writesY Instr.writesSp at *
  generalize i.mnemonic = mn at *
  generalize i.mode = m at *
  cases mn
  case adc => exact h.readForm hR m fun b _ _ hR' => h.setSum hR' b rfl rfl rfl rfl rfl
  case sbc => exact h.readForm hR m fun b _ _ hR' => h.setSum hR' (b ^^^ 0xFF) rfl rfl rfl rfl rfl
  case and | ora | eor => exact h.combineA hR _ m rfl rfl rfl
  case bit =>
    dsimp only [meaning, testBits]
    exact h.readForm hR m fun b _ _ hR' => h.setP hR' (by
      rw [h.a hR']
      exact (((h.status hR').setFlag .z _ rfl).setFlag .n _ rfl).setFlag .v _ rfl)
  case asl | lsr => exact h.modifyForm hR m hacc fun b _ _ hR' => ⟨rfl, h.shiftStatus hR' _ _ rfl rfl rfl⟩
  case rol | ror =>
    refine h.modifyForm hR m hacc fun b u v hR' => ?_
    simp only [rolOf, rorOf, h.flag hR' .c (by decide)]
    exact ⟨trivial, h.shiftStatus hR' _ _ rfl rfl rfl⟩
  case inc | dec => exact h.modifyForm hR m hacc fun b _ _ hR' => ⟨rfl, (h.status hR').setZN _ rfl rfl⟩
  case bcc | bcs => exact h.jumpForm hR m (by rw [h.flag hR .c (by decide)])
  case beq | bne => exact h.jumpForm hR m (by rw [h.flag hR .z (by decide)])
  case bmi | bpl => exact h.jumpForm hR m (by rw [h.flag hR .n (by decide)])
  case bvc | bvs => exact h.jumpForm hR m (by rw [h.flag hR .v (by decide)])
  case cmp => exact h.compareWith hR m (h.a hR) rfl rfl rfl
  case cpx => exact h.compareWith hR m (h.x hR) rfl rfl rfl
  case cpy => exact h.compareWith hR m (h.y hR) rfl rfl rfl
  case inx | dex =>
    dsimp only [meaning, execInx, execDex]
    exact h.impliedForm hR fun hR' => by
      rw [h.x hR']
      exact h.setZN (h.setX rfl hR' _) _ rfl rfl
  case iny | dey =>
    dsimp only [meaning, execIny, execDey]
    exact h.impliedForm hR fun hR' => by
      rw [h.y hR']
      exact h.setZN (h.setY rfl hR' _) _ rfl rfl
  case pha => exact h.pushForm hR rfl (h.a hR)
  case php =>
    obtain rfl := hphp rfl
    exact h.pushForm hR rfl (agreeOn_full.1 (h.agree hR))
  case pla => exact h.pullForm hR rfl fun b _ _ hR' => h.setZN (h.setA rfl hR' b) b rfl rfl
  case plp =>
    have hbits : ∀ k < 8, writesBit .plp k = true := by decide
    exact h.pullForm hR rfl fun b _ _ hR' => h.setP hR' (.whole b hbits)
  case jmp => exact h.jumpForm hR m rfl
  case jsr => exact h.callForm hR m rfl
  case rts => exact h.execRts hR rfl
  case rti =>
    have hbits : ∀ k < 8, writesBit .rti k = true := by decide
    exact h.execRti hR rfl hbits
  case tax => exact h.transferX hR (h.a hR) rfl rfl rfl
  case tay => exact h.transferY hR (h.a hR) rfl rfl rfl
  case tsx => exact h.transferX hR (h.sp hR) rfl rfl rfl
  case txa => exact h.transferA hR (h.x hR) rfl rfl rfl
  case tya => exact h.transferA hR (h.y hR) rfl rfl rfl
  case txs =>
    dsimp only [meaning, execTxs]
    exact h.impliedForm hR fun hR' => by
      rw [h.x hR']
      exact h.setSp rfl hR' _
  case lda => exact h.readForm hR m fun b _ _ hR' => h.setZN (h.setA rfl hR' b) b rfl rfl
  case ldx => exact h.readForm hR m fun b _ _ hR' => h.setZN (h.setX rfl hR' b) b rfl rfl
  case ldy => exact h.readForm hR m fun b _ _ hR' => h.setZN (h.setY rfl hR' b) b rfl rfl
  case sta => exact h.storeForm hR m hacc (h.a hR)
  case stx => exact h.storeForm hR m hacc (h.x hR)
  case sty => exact h.storeForm hR m hacc (h.y hR)
  case clc | cld | cli | clv | sec | sed | sei => exact h.writeFlag hR _ _ rfl
  case brk =>
    dsimp only [meaning, execBrk]
    exact h.impliedForm hR fun hR' => by
      rw [h.pc hR]
      exact h.haltBrk hR' _
  case nop => exact h.impliedForm hR id

/-- A relation with the same P that every instruction's operations keep is kept by the step. -/
theorem step {R : State → State → Prop} (h : ∀ i, Simulation (writesOf i) 0xFF R) {s t u : State} (hR : R s t)
    (hs : step s = .next u) : ∃ v, Machine.step t = .next v ∧ R u v := by
  have hrun : s.run = .running := running_of_step hs
  have hrun' : t.run = .running := ((h .nop).run hR).trans hrun
  obtain ⟨hf, hR₁⟩ := (h .nop).fetchInstr hR
  cases hfetch : Machine.fetchInstr s with
  | mk r s₁ =>
  cases hfetch' : Machine.fetchInstr t with
  | mk r' t₁ =>
  rw [hfetch, hfetch'] at hf hR₁
  obtain rfl : r' = r := hf
  cases r' with
  | error e =>
    rw [step_of_fetch_error hrun hfetch] at hs
    cases hs
    exact ⟨_, step_of_fetch_error hrun' hfetch', (h .nop).raise hR hR₁ e⟩
  | ok i =>
    obtain ⟨u₁, v₁, hu, hv, hR₂⟩ := (h i).exec (fun _ => rfl) hR₁
    rw [step_of_fetch hrun hfetch hu] at hs
    cases hs
    exact ⟨_, step_of_fetch hrun' hfetch' hv, (h i).settle hR hR₂⟩

end Simulation

/-! ### The frame of an instruction -/

/-- `t` has the configuration of `s`, and of its registers and the bits of P those that may not be written. -/
structure Frame (w : Writes) (s t : State) : Prop where
  a : w.a = false → t.a = s.a
  x : w.x = false → t.x = s.x
  y : w.y = false → t.y = s.y
  sp : w.sp = false → t.sp = s.sp
  bit : ∀ k, w.bit k = false → t.p.getLsbD k = s.p.getLsbD k
  cfg : t.cfg = s.cfg

theorem Frame.simulation (w : Writes) (s₀ : State) :
    Simulation w 0xFF (fun s t => t = s ∧ Frame w s₀ s) where
  same h := by rw [h.1]
  agree h := by rw [h.1]; rfl
  tested := by decide
  cell h _ := by rw [h.1]
  write h _ v := ⟨by rw [h.1], { h.2 with }⟩
  logEvent h e := ⟨by rw [h.1], { h.2 with }⟩
  runDraws h r n := ⟨by rw [h.1], { h.2 with }⟩
  setPc h v := ⟨by rw [h.1], { h.2 with }⟩
  setA hw _ _ h v := ⟨by rw [h.1], { h.2 with a := fun hw' => nomatch hw.symm.trans hw' }⟩
  setX hw _ _ h v := ⟨by rw [h.1], { h.2 with x := fun hw' => nomatch hw.symm.trans hw' }⟩
  setY hw _ _ h v := ⟨by rw [h.1], { h.2 with y := fun hw' => nomatch hw.symm.trans hw' }⟩
  setSp hw _ _ h v := ⟨by rw [h.1], { h.2 with sp := fun hw' => nomatch hw.symm.trans hw' }⟩
  setP h hp := ⟨by rw [h.1, agreeOn_full.1 hp.agree],
    { h.2 with bit := fun k hk => (hp.frame k hk).trans (h.2.bit k hk) }⟩

theorem exec_frame {i : Instr} {s u : State} (h : exec i s = .next u) : Frame (writesOf i) s u := by
  have hs : Frame (writesOf i) s s :=
    ⟨fun _ => rfl, fun _ => rfl, fun _ => rfl, fun _ => rfl, fun _ _ => rfl, rfl⟩
  obtain ⟨u', _, hu, _, _, hframe⟩ := (Frame.simulation (writesOf i) s).exec (fun _ => rfl) ⟨rfl, hs⟩
  rw [h] at hu
  cases hu
  exact hframe

/-- Settles O18, from the instruction's frame. -/
theorem registerFrame : Obligations.RegisterFrame := by
  intro i s u h
  have hf := exec_frame h
  exact ⟨hf.a, hf.x, hf.y, hf.sp, hf.cfg⟩

/-- Settles O19, from the instruction's frame, bit by bit. -/
theorem statusFrame : Obligations.StatusFrame := by
  intro i s u h
  have hbit := (exec_frame h).bit
  exact ⟨hbit 0, fun hw => ⟨hbit 1 hw, hbit 7 hw⟩, hbit 2, hbit 3, fun hw => ⟨hbit 4 hw, hbit 5 hw⟩, hbit 6⟩

/-! ### Relations of memory and log alone -/

/-- The states differ in memory and log at most, and these are related. -/
structure StoreRelated (Q : Config → Memory → List BusEvent → Memory → List BusEvent → Prop) (s t : State) :
    Prop where
  same : t = { s with mem := t.mem, log := t.log }
  related : Q s.cfg s.mem s.log t.mem t.log

/-- A relation of memories and logs that gives the same bytes to reads and is kept by writes and events. -/
structure StoreSimulation (Q : Config → Memory → List BusEvent → Memory → List BusEvent → Prop) : Prop where
  read : ∀ {c m l m' l' addr n}, Q c m l m' l' → cellOf c addr = some n → Memory.read m' n = Memory.read m n
  write : ∀ {c m l m' l' addr n}, Q c m l m' l' → cellOf c addr = some n → ∀ v,
    Q c (Memory.write m n v) l (Memory.write m' n v) l'
  event : ∀ {c m l m' l'}, Q c m l m' l' → ∀ e, Q c m (l ++ [e]) m' (l' ++ [e])

/-- Register updates do not concern such a relation, so every instruction keeps it. -/
theorem StoreSimulation.simulation {Q : Config → Memory → List BusEvent → Memory → List BusEvent → Prop}
    (h : StoreSimulation Q) (w : Writes) : Simulation w 0xFF (StoreRelated Q) where
  same hQ := by rw [hQ.same]
  agree hQ := by rw [hQ.same]; rfl
  tested := by decide
  cell hQ hn := h.read hQ.related hn
  write hQ hn v := ⟨by rw [hQ.same]; rfl, h.write hQ.related hn v⟩
  logEvent hQ e := ⟨by rw [hQ.same]; rfl, h.event hQ.related e⟩
  runDraws hQ r n := ⟨by rw [hQ.same], hQ.related⟩
  setPc hQ v := ⟨by rw [hQ.same]; rfl, hQ.related⟩
  setA _ _ _ hQ v := ⟨by rw [hQ.same]; rfl, hQ.related⟩
  setX _ _ _ hQ v := ⟨by rw [hQ.same]; rfl, hQ.related⟩
  setY _ _ _ hQ v := ⟨by rw [hQ.same]; rfl, hQ.related⟩
  setSp _ _ _ hQ v := ⟨by rw [hQ.same]; rfl, hQ.related⟩
  setP hQ hp := ⟨by rw [hQ.same, agreeOn_full.1 hp.agree]; rfl, hQ.related⟩

/-- A step keeps a relation of memory and log. -/
theorem StoreSimulation.step {Q : Config → Memory → List BusEvent → Memory → List BusEvent → Prop}
    (h : StoreSimulation Q) {s t u : State} (hQ : StoreRelated Q s t) (hs : step s = .next u) :
    ∃ v, Machine.step t = .next v ∧ StoreRelated Q u v :=
  Simulation.step (fun i => h.simulation (writesOf i)) hQ hs

/-! ### The configuration and the invariant -/

/-- The same memory and log in both states, with a property of the configuration and the memory. -/
def SameWith (I : Config → Memory → Prop) (c : Config) (m : Memory) (l : List BusEvent) (m' : Memory)
    (l' : List BusEvent) : Prop :=
  m' = m ∧ l' = l ∧ I c m

section
variable {I : Config → Memory → Prop}
  (hI : ∀ {c m addr n}, I c m → cellOf c addr = some n → ∀ v, I c (Memory.write m n v))
include hI

theorem sameWith_simulation : StoreSimulation (SameWith I) where
  read h _ := by rw [h.1]
  write h hn v := ⟨by rw [h.1], h.2.1, hI h.2.2 hn v⟩
  event h e := ⟨h.1, by rw [h.2.1], h.2.2⟩

/-- A step keeps a property of the configuration and the memory that every write of a reached cell keeps. -/
theorem step_keeps {s u : State} (hs : I s.cfg s.mem) (h : step s = .next u) : I u.cfg u.mem := by
  obtain ⟨_, _, hrel⟩ := (sameWith_simulation hI).step (t := s) ⟨rfl, rfl, rfl, hs⟩ h
  obtain ⟨_, _, hu⟩ := hrel.related
  exact hu

end

/-- Settles O13: no operation of an instruction writes the configuration. -/
theorem stepKeepsConfiguration : Obligations.StepKeepsConfiguration := by
  intro s u h
  exact step_keeps (I := fun c _ => c = s.cfg) (fun hc _ _ => hc) rfl h

/-- Settles O11: a write reaches one of the 65536 cells and keeps memory canonical, and the image is not changed. -/
theorem stepKeepsWellFormed : Obligations.StepKeepsWellFormed := by
  intro s u hwf h
  simp only [State.wf, Bool.and_eq_true] at hwf ⊢
  exact step_keeps (I := fun c m => Memory.wf m = true ∧ Config.wf c = true)
    (fun hc hn v => ⟨Memory.wf_write v (cellOf_lt hn) hc.1, hc.2⟩) hwf h

/-! ### The store above 0x07FF in the famicom map -/

/-- In the famicom map an address reaches a cell below 0x0800 or none (R44). -/
theorem cellOf_famicom_lt {c : Config} {prg : PrgImage} {addr : Addr} {n : Nat} (hc : c.bus = .famicom prg)
    (h : cellOf c addr = some n) : n < 0x0800 := by
  simp only [cellOf, hc] at h
  split at h
  · cases h
    rw [ramIndex, BitVec.toNat_and]
    exact lt_of_le_of_lt Nat.and_le_right (by decide)
  · cases h

/-- In the famicom map, memories that agree below 0x0800 and hold there above what `m₁` and `m₂` hold. -/
structure UpperApart (prg : PrgImage) (m₁ m₂ : Memory) (c : Config) (m : Memory) (l : List BusEvent) (m' : Memory)
    (l' : List BusEvent) : Prop where
  bus : c.bus = .famicom prg
  log : l' = l
  below : ∀ n < 0x0800, Memory.read m' n = Memory.read m n
  above : ∀ n, 0x0800 ≤ n → Memory.read m n = Memory.read m₁ n ∧ Memory.read m' n = Memory.read m₂ n

theorem upperApart_simulation (prg : PrgImage) (m₁ m₂ : Memory) : StoreSimulation (UpperApart prg m₁ m₂) where
  read h hn := h.below _ (cellOf_famicom_lt h.bus hn)
  write {_ _ _ _ _ _ n} h hn v := { h with
    below := fun k hk => by
      by_cases hkn : k = n
      · rw [hkn, Memory.read_write_same, Memory.read_write_same]
      · rw [Memory.read_write_other _ v hkn, Memory.read_write_other _ v hkn, h.below k hk]
    above := fun k hk => by
      have hkn := ne_of_gt (lt_of_lt_of_le (cellOf_famicom_lt h.bus hn) hk)
      rw [Memory.read_write_other _ v hkn, Memory.read_write_other _ v hkn]
      exact h.above k hk }
  event h e := { h with log := by rw [h.log] }

/-- Settles O15: every cell an address reaches lies below 0x0800, where the two memories agree. -/
theorem famicomUpperStoreUnreachable : Obligations.FamicomUpperStoreUnreachable := by
  intro s u m prg hbus hbelow h
  have start : StoreRelated (UpperApart prg s.mem m) s (s.setMem m) :=
    ⟨rfl, hbus, rfl, hbelow, fun _ _ => ⟨rfl, rfl⟩⟩
  obtain ⟨v, hv, hsame, hrel⟩ := (upperApart_simulation prg s.mem m).step start h
  exact ⟨v, hv, by rwa [hrel.log] at hsame, hrel.below, hrel.above⟩

/-! ### The event log -/

/-- The same memory, and logs that are `l₁` and `l₂` followed by the same events. -/
def LogsGrowAlike (l₁ l₂ : List BusEvent) (_ : Config) (m : Memory) (l : List BusEvent) (m' : Memory)
    (l' : List BusEvent) : Prop :=
  m' = m ∧ ∃ es, l = l₁ ++ es ∧ l' = l₂ ++ es

theorem logsGrowAlike_simulation (l₁ l₂ : List BusEvent) : StoreSimulation (LogsGrowAlike l₁ l₂) where
  read h _ := by rw [h.1]
  write h _ v := ⟨by rw [h.1], h.2⟩
  event h e := by
    obtain ⟨hm, es, hl, hl'⟩ := h
    exact ⟨hm, es ++ [e], by rw [hl, List.append_assoc], by rw [hl', List.append_assoc]⟩

/-- Settles O16: no operation reads the log, and both runs append the same events. -/
theorem logNeverAffectsExecution : Obligations.LogNeverAffectsExecution := by
  intro s u l h
  have start : StoreRelated (LogsGrowAlike s.log l) s { s with log := l } :=
    ⟨rfl, rfl, [], (List.append_nil _).symm, (List.append_nil _).symm⟩
  obtain ⟨v, hv, hsame, hmem, es, hl, hl'⟩ := (logsGrowAlike_simulation s.log l).step start h
  exact ⟨es, hl, by rw [hv, hsame, hmem, hl']⟩

/-! ### The stored flags that only PHP reads -/

/-- The states differ in P at most, and there only in I, D, B and bit 5. -/
structure InertApart (s t : State) : Prop where
  same : t = { s with p := t.p }
  agree : AgreeOn 0xC3 t.p s.p

theorem InertApart.simulation (w : Writes) : Simulation w 0xC3 InertApart where
  same h := by rw [h.same]
  agree h := h.agree
  tested := by decide
  cell h _ := by rw [h.same]
  write h _ v := ⟨by rw [h.same]; rfl, h.agree⟩
  logEvent h e := ⟨by rw [h.same]; rfl, h.agree⟩
  runDraws h r n := ⟨by rw [h.same], h.agree⟩
  setPc h v := ⟨by rw [h.same]; rfl, h.agree⟩
  setA _ _ _ h v := ⟨by rw [h.same]; rfl, h.agree⟩
  setX _ _ _ h v := ⟨by rw [h.same]; rfl, h.agree⟩
  setY _ _ _ h v := ⟨by rw [h.same]; rfl, h.agree⟩
  setSp _ _ _ h v := ⟨by rw [h.same]; rfl, h.agree⟩
  setP h hp := ⟨by rw [h.same]; rfl, hp.agree⟩

/-- Settles O17: outside PHP no meaning reads more of P than C, Z, V and N. -/
theorem storedFlagsAreInert : Obligations.StoredFlagsAreInert := by
  intro i s u q hphp hq h
  obtain ⟨u', v, hu, hv, hsame, hagree⟩ :=
    (InertApart.simulation (writesOf i)).exec (fun e => absurd e hphp) (t := s.setP q) ⟨rfl, hq⟩
  rw [h] at hu
  cases hu
  exact ⟨v, hv, hsame, hagree⟩

end Sys2Proof.Machine

/-!
PROOFS. The family of the memory: the bus, 16-bit accesses, the stack's round trip, the host's Load and launch, and what
one instruction and one step may do to memory, the log and the draw counter (R41-R64, R301-R303).

The bus is told by numbers once (`busClass_eq`, `cellOf_famicom`). The statements about instructions and steps follow
from two inversions, `exec_effect` and `step_effect`: an instruction reaches its next state by bus reads, writes of its
stored cells and register updates, or halts by BRK, or by RomWrite with nothing drawn.
-/

namespace Sys2Proof.Machine

/-! ### The bus told by numbers -/

/-- The decoder's four windows (R41). -/
theorem busClass_eq (addr : Addr) :
    busClass addr = if addr.toNat ≤ 0x1FFF then .ram
      else if addr.toNat ≤ 0x3FFF then .ppu
      else if addr.toNat ≤ 0x7FFF then .unmapped else .prg := rfl

theorem busClass_ram_iff (addr : Addr) : busClass addr = .ram ↔ addr.toNat ≤ 0x1FFF := by
  rw [busClass_eq]
  split_ifs <;> simp <;> omega

theorem busClass_prg_iff (addr : Addr) : busClass addr = .prg ↔ 0x8000 ≤ addr.toNat := by
  rw [busClass_eq]
  split_ifs <;> simp <;> omega

theorem ramIndex_eq_mod (addr : Addr) : ramIndex addr = addr.toNat % 2048 := by
  rw [ramIndex, BitVec.toNat_and, show (0x07FF : Addr).toNat = 2 ^ 11 - 1 from rfl, Nat.and_two_pow_sub_one_eq_mod]

/-- The image is mirrored to fill the window (R47). -/
theorem prgOffset_eq_mod (prg : PrgImage) {addr : Addr} (h : 0x8000 ≤ addr.toNat) :
    prgOffset prg addr = (addr.toNat - 0x8000) % prg.size.bytes := by
  have hlt := addr.isLt
  have hsub : (addr - 0x8000).toNat = addr.toNat - 0x8000 := by
    rw [BitVec.toNat_sub_of_le (by rw [BitVec.le_def]; exact h)]
    rfl
  unfold prgOffset
  cases prg.size with
  | bank16K =>
    rw [BitVec.toNat_and, hsub, show (0x3FFF : Addr).toNat = 2 ^ 14 - 1 from rfl, Nat.and_two_pow_sub_one_eq_mod]
    rfl
  | bank32K =>
    simp only [hsub, PrgSize.bytes]
    omega

theorem cellOf_flat {c : Config} (hc : c.bus = .flat) (addr : Addr) : cellOf c addr = some addr.toNat := by
  simp only [cellOf, hc]

/-- In the famicom map exactly the RAM window reaches cells, through its mirror (R44). -/
theorem cellOf_famicom {c : Config} {prg : PrgImage} (hc : c.bus = .famicom prg) (addr : Addr) :
    cellOf c addr = if addr.toNat ≤ 0x1FFF then some (addr.toNat % 2048) else none := by
  simp only [cellOf, hc, busClass_ram_iff, ramIndex_eq_mod]

/-- Every zero-page address reaches its own cell in either map (R44): page 0 lies inside the RAM window. -/
theorem cellOf_zext16 (c : Config) (b : Byte) : cellOf c (zext16 b) = some b.toNat := by
  have hlt := b.isLt
  cases hb : c.bus with
  | flat => rw [cellOf_flat hb, zext16_toNat]
  | famicom prg => rw [cellOf_famicom hb, zext16_toNat, if_pos (by omega), Nat.mod_eq_of_lt (by omega)]

/-- A read in the PRG window answers the image's byte and changes nothing (R42, R47). -/
theorem busRead_prg {s : State} {prg : PrgImage} {addr : Addr} (hb : s.cfg.bus = .famicom prg)
    (h : 0x8000 ≤ addr.toNat) : busRead s addr = (prgByte prg ((addr.toNat - 0x8000) % prg.size.bytes), s) := by
  simp only [busRead, hb, (busClass_prg_iff addr).2 h, prgOffset_eq_mod prg h]

/-! ### Bus reads and writes -/

/-- Settles O47, by the four windows of the decoder. -/
theorem famicomBusRead : Obligations.FamicomBusRead := by
  intro s prg addr hb
  refine ⟨(busRead s addr).1, (busRead s addr).2, rfl, ?_⟩
  simp only [busRead, hb, busClass_eq]
  by_cases hram : addr.toNat ≤ 0x1FFF
  · simp only [if_pos hram, ramIndex_eq_mod, and_self]
  by_cases hppu : addr.toNat ≤ 0x3FFF
  · simp only [if_neg hram, if_pos hppu]
    rfl
  by_cases hunmapped : addr.toNat ≤ 0x7FFF
  · simp only [if_neg hram, if_neg hppu, if_pos hunmapped, true_and]
    rfl
  · simp only [if_neg hram, if_neg hppu, if_neg hunmapped, prgByte, and_true]
    rw [prgOffset_eq_mod prg (by omega)]

/-- Settles O49, by the four windows of the decoder. -/
theorem famicomBusWrite : Obligations.FamicomBusWrite := by
  intro s prg addr v hb
  simp only [busWrite, hb, busClass_eq, ramIndex_eq_mod]
  by_cases hram : addr.toNat ≤ 0x1FFF
  · simp only [if_pos hram]
    rfl
  by_cases hppu : addr.toNat ≤ 0x3FFF
  · simp only [if_neg hram, if_pos hppu]
    rfl
  by_cases hunmapped : addr.toNat ≤ 0x7FFF
  · simp only [if_neg hram, if_neg hppu, if_pos hunmapped]
    rfl
  · simp only [if_neg hram, if_neg hppu, if_neg hunmapped]

/-- Settles O50: in the flat map an address reaches its own cell. -/
theorem flatBusAccess : Obligations.FlatBusAccess := by
  intro s addr v hb
  have hcell := cellOf_flat hb addr
  exact ⟨busRead_of_cell hcell, _, busWrite_of_cell v hcell, rfl, Memory.read_write_same _ _ _,
    fun _ hn => Memory.read_write_other _ _ hn⟩

/-- Settles O51: the four mirrors reach one cell, and pages 0 and 1 lie below 0x2000. -/
theorem ramMirror : Obligations.RamMirror := by
  constructor
  · intro s prg i k v hb hi hk
    have hcell : cellOf s.cfg (BitVec.ofNat 16 (i + k * 0x0800)) = some i := by
      rw [cellOf_famicom hb, BitVec.toNat_ofNat, if_pos (by omega)]
      congr 1
      omega
    exact ⟨busRead_of_cell hcell, busWrite_of_cell v hcell⟩
  · intro b
    have hlt := b.isLt
    exact ⟨(busClass_ram_iff _).2 (by rw [zext16_toNat]; omega),
      (busClass_ram_iff _).2 (by rw [stackAddr_toNat]; omega)⟩

/-- Settles O52, from the sparse memory's read after a write. -/
theorem busReadAfterWrite : Obligations.BusReadAfterWrite := by
  intro s a b v n k ha hb
  refine ⟨_, busWrite_of_cell v ha, ?_⟩
  rw [busRead_of_cell (show cellOf (s.setMem (Memory.write s.mem n v)).cfg b = some k from hb), State.setMem_mem]
  by_cases hkn : k = n
  · rw [if_pos hkn, hkn, Memory.read_write_same]
  · rw [if_neg hkn, Memory.read_write_other _ _ hkn]

/-- A 16-bit write to cells writes the low byte's cell, then the high byte's (R51). -/
theorem memWrite2_of_cells {s : State} {a : Addr} {n k : Nat} (v : Addr) (hn : cellOf s.cfg a = some n)
    (hk : cellOf s.cfg (a + 1) = some k) :
    memWrite2 s a v =
      .ok (s.setMem (Memory.write (Memory.write s.mem n (lowByte v)) k (highByte v))) := by
  rw [memWrite2, busWrite_of_cell _ hn]
  exact busWrite_of_cell (s := s.setMem (Memory.write s.mem n (lowByte v))) _ hk

/-- A 16-bit read of cells joins their bytes and changes nothing (R50). -/
theorem memRead2_of_cells {s : State} {a : Addr} {n k : Nat} (hn : cellOf s.cfg a = some n)
    (hk : cellOf s.cfg (a + 1) = some k) :
    memRead2 s a = (wordOf (Memory.read s.mem k) (Memory.read s.mem n), s) := by
  simp only [memRead2, readWordAt, busRead_of_cell hn, busRead_of_cell hk]

/-- Settles O53: each byte lands in its own cell, and the word is joined from the two. -/
theorem wordWriteReadRoundTrip : Obligations.WordWriteReadRoundTrip := by
  intro s a b v n k ha ha1 hnk hb hb1
  refine ⟨_, memWrite2_of_cells v ha ha1, ?_⟩
  rw [memRead2_of_cells (s := s.setMem (Memory.write (Memory.write s.mem n (lowByte v)) k (highByte v))) hb hb1,
    State.setMem_mem, Memory.read_write_same, Memory.read_write_other _ _ hnk, Memory.read_write_same, wordOf_high_low]

/-! ### The stack -/

/-- A byte pushed and then pulled comes back, and SP with it, since SP - 1 + 1 is SP modulo 256 (R56). -/
theorem pullForm_after_push (s : State) (v : Byte) (use : Byte → State → State) :
    ∃ t, pushForm s v = .next t ∧ t = { s with mem := t.mem, sp := s.sp - 1, pc := s.pc + 1 } ∧
      pullForm t use = .next (use v { t with sp := s.sp, pc := s.pc + 2 }) := by
  refine ⟨_, pushForm_eq s v, rfl, ?_⟩
  have hpc : s.pc + 1 + 1 = s.pc + 2 := by bv_omega
  rw [pullForm_eq]
  simp only [State.setSp_sp, State.setSp_mem, State.setMem_mem, BitVec.sub_add_cancel, Memory.read_write_same, ← hpc]
  rfl

/-- Settles O37. -/
theorem pushThenPullRestores : Obligations.PushThenPullRestores := by
  intro s
  constructor
  · obtain ⟨t, hpush, ht, hpull⟩ := pullForm_after_push s s.a fun v t => (t.setA v).setP (setZN t.p v)
    have hx : t.x = s.x := by rw [ht]
    have hy : t.y = s.y := by rw [ht]
    exact ⟨t, _, hpush, hpull, rfl, rfl, hx, hy⟩
  · obtain ⟨t, hpush, -, hpull⟩ := pullForm_after_push s s.p fun v t => t.setP v
    exact ⟨t, hpush, hpull⟩

/-! ### Resolving without a draw -/

/-- Pointers in page 0 are cells in either map, so every mode with an address but Indirect is resolved with no event
and no draw (R106-R112, R114-R116). -/
theorem resolve_without_event {m : Mode} (s : State) (hi : m.name ≠ .implied) (ha : m.name ≠ .accumulator)
    (hj : m.name ≠ .indirect) : ∃ ea, resolve m s = .ok (ea, s) := by
  have pointer : ∀ zp : Byte, (readZeroPagePointer s zp).2 = s := fun zp => by
    simp only [readZeroPagePointer, readWordAt, busRead_of_cell (cellOf_zext16 s.cfg _)]
  cases m with
  | implied => exact absurd rfl hi
  | accumulator => exact absurd rfl ha
  | indirect ptr => exact absurd rfl hj
  | indirectX zp => exact ⟨_, congrArg (fun t => Except.ok (_, t)) (pointer (zp + s.x))⟩
  | indirectY zp => exact ⟨_, congrArg (fun t => Except.ok (_, t)) (pointer zp)⟩
  | _ => exact ⟨_, rfl⟩

/-! ### Bus accesses and register updates -/

/-- `t` is `s` but for the registers and P. -/
def RegistersOnly (s t : State) : Prop :=
  t = { s with a := t.a, x := t.x, y := t.y, pc := t.pc, sp := t.sp, p := t.p }

/-- `u` is reached from `s` by bus reads, by writes that succeed and reach cells of the list or none, and by updates of
the registers and P. -/
inductive Accesses (cells : List Nat) (s : State) : State → Prop
  | refl : Accesses cells s s
  | read {t : State} (addr : Addr) (h : Accesses cells s t) : Accesses cells s (busRead t addr).2
  | write {t u : State} {addr : Addr} {v : Byte} (h : Accesses cells s t) (hw : busWrite t addr v = .ok u)
      (hc : ∀ n, cellOf t.cfg addr = some n → n ∈ cells) : Accesses cells s u
  | registers {t u : State} (h : Accesses cells s t) (hu : RegistersOnly t u) : Accesses cells s u

namespace Accesses

variable {cells : List Nat} {s t : State}

/-- No access changes the configuration or the run state. -/
theorem cfg_run (h : Accesses cells s t) : t.cfg = s.cfg ∧ t.run = s.run := by
  induction h with
  | refl => exact ⟨rfl, rfl⟩
  | read addr _ ih => rwa [busRead_readsOnly _ addr]
  | write _ hw _ ih => rcases busWrite_ok hw with ⟨n, _, rfl⟩ | ⟨_, e, rfl⟩ <;> exact ih
  | registers _ hu ih => rwa [hu]

theorem cfg_eq (h : Accesses cells s t) : t.cfg = s.cfg := h.cfg_run.1

theorem run_eq (h : Accesses cells s t) : t.run = s.run := h.cfg_run.2

/-- Cells outside the list keep their bytes, and with no cell in it memory is the same data (R54). -/
theorem memory (h : Accesses cells s t) :
    (∀ n, n ∉ cells → Memory.read t.mem n = Memory.read s.mem n) ∧ (cells = [] → t.mem = s.mem) := by
  induction h with
  | refl => exact ⟨fun _ _ => rfl, fun _ => rfl⟩
  | read addr _ ih => rwa [(busRead_readsOnly _ addr).mem_eq]
  | write _ hw hc ih =>
    rcases busWrite_ok hw with ⟨k, hk, rfl⟩ | ⟨_, e, rfl⟩
    · have hmem := hc k hk
      refine ⟨fun n hn => ?_, fun hnil => absurd hmem (by simp [hnil])⟩
      rw [State.setMem_mem, Memory.read_write_other _ _ (ne_of_mem_of_not_mem hmem hn).symm, ih.1 n hn]
    · exact ih
  | registers _ hu ih => rwa [hu]

/-- Every PPU-window read among the accesses takes a number of its own (R45). -/
theorem drawsNumbered (h : Accesses cells s t) : DrawsNumbered s t := by
  induction h with
  | refl => exact .refl s
  | read addr _ ih => exact ih.trans (busRead_drawsNumbered _ addr)
  | write _ hw _ ih => exact ih.trans (busWrite_drawsNumbered hw)
  | registers _ hu ih => exact ih.trans (.of_eq (by rw [hu]) (by rw [hu]))

/-- In the flat map no access logs or draws (R49). -/
theorem flat (hb : s.cfg.bus = .flat) (h : Accesses cells s t) : t.log = s.log ∧ t.draws = s.draws := by
  induction h with
  | refl => exact ⟨rfl, rfl⟩
  | read addr h ih => rwa [busRead_of_cell (cellOf_flat (h.cfg_eq ▸ hb) addr)]
  | write h hw _ ih =>
    rw [busWrite_of_cell _ (cellOf_flat (h.cfg_eq ▸ hb) _)] at hw
    cases hw
    exact ih
  | registers _ hu ih => rwa [hu]

theorem advance (h : Accesses cells s t) (n : ModeName) : Accesses cells s (t.advance n) := h.registers rfl

theorem readWordAt (h : Accesses cells s t) (lo hi : Addr) : Accesses cells s (readWordAt t lo hi).2 :=
  (h.read lo).read hi

theorem pop (h : Accesses cells s t) : Accesses cells s (pop t).2 :=
  (h.registers (u := t.setSp (t.sp + 1)) rfl).read _

theorem popWord (h : Accesses cells s t) : Accesses cells s (popWord t).2 := h.pop.pop

/-- A push writes its stack cell (R56). -/
theorem push (h : Accesses cells s t) (v : Byte) (hc : 256 + t.sp.toNat ∈ cells) :
    ∃ u, push t v = .ok u ∧ u.sp = t.sp - 1 ∧ Accesses cells s u := by
  have hcell := cellOf_stackAddr t.cfg t.sp
  refine ⟨_, push_eq t v, rfl, (h.write (busWrite_of_cell v hcell) fun n hn => ?_).registers rfl⟩
  rw [hcell, Option.some.injEq] at hn
  exact hn ▸ hc

/-- The resolver only reads (R113-R115). -/
theorem resolve {m : Mode} {ea : Addr} (h : resolve m s = .ok (ea, t)) : Accesses cells s t := by
  by_cases hj : m.name = .indirect
  · cases m <;> cases hj
    have ht : (Machine.readWordAt s _ _).2 = t := congrArg Prod.snd (Except.ok.inj h)
    exact ht ▸ refl.readWordAt _ _
  · have hi : m.name ≠ .implied := fun hi => by cases m <;> cases hi; cases h
    have ha : m.name ≠ .accumulator := fun ha => by cases m <;> cases ha; cases h
    obtain ⟨ea', h'⟩ := resolve_without_event s hi ha hj
    rw [h'] at h
    cases h
    exact refl

/-- Finding an operand only reads, and only an implied instruction has none to find (R104, R119). -/
theorem locate {m : Mode} (hi : m.name ≠ .implied) (s : State) :
    ∃ pl t, locate m s = .ok (pl, t) ∧ Accesses cells s t := by
  by_cases ha : m = .accumulator
  · exact ⟨_, _, by rw [ha, locate_accumulator], refl⟩
  by_cases hm : m.name = .immediate
  · cases m <;> cases hm
    exact ⟨_, _, locate_immediate s _, refl⟩
  · obtain ⟨ea, t, hr⟩ := resolve_ok m s (fun h => hi (congrArg Mode.name h)) ha
    exact ⟨_, _, locate_cell hm ha hr, resolve hr⟩

theorem readPlace (h : Accesses cells s t) (pl : Place) : Accesses cells s (readPlace pl t).2 := by
  cases pl with
  | accumulator => exact h
  | fetched addr v => exact h
  | cell addr => exact h.read addr

/-- The fetch only reads (R64). -/
theorem fetchInstr (s : State) : Accesses cells s (fetchInstr s).2 := by
  simp only [Machine.fetchInstr]
  have h0 : Accesses cells s (busRead s s.pc).2 := refl.read _
  have h1 := h0.read (s.pc + 1)
  cases opcodeForm (busRead s s.pc).1 with
  | none => exact h0
  | some form =>
    cases form with
    | bare i => exact h0
    | withByte build => exact h1
    | withWord build => exact h1.read (s.pc + 2)

end Accesses

/-! ### The effects of the shapes of meaning -/

/-- All an instruction can do: reach its next state by accesses to the listed cells, halt by BRK, or halt by RomWrite
with nothing changed and nothing drawn (R101, R247, R263). -/
inductive Effect (cells : List Nat) (s u : State) : Prop
  | accesses (h : Accesses cells s u)
  | brk (h : u = haltBrk (s.advance .implied) s.pc)
  | romWrite (ea : Addr) (v : Byte) (hb : ∃ prg, s.cfg.bus = .famicom prg) (h : u = raise s s (.romWrite ea v))

/-- The meaning answers a next state, and its effect is one of these. -/
def HasEffect (cells : List Nat) (s : State) (r : Result) : Prop := ∃ u, r = .next u ∧ Effect cells s u

section
variable {cells : List Nat} {m : Mode} {s : State}

theorem hasEffect_next {t u : State} (h : Accesses cells s t) (hu : RegistersOnly t u) :
    HasEffect cells s (.next u) := ⟨u, rfl, .accesses (h.registers hu)⟩

theorem impliedForm_hasEffect {f : State → State} (hf : ∀ t, RegistersOnly t (f t)) :
    HasEffect cells s (impliedForm s f) := hasEffect_next (Accesses.refl.advance _) (hf _)

theorem readForm_hasEffect (hi : m.name ≠ .implied) {use : Byte → State → State}
    (hu : ∀ v t, RegistersOnly t (use v t)) : HasEffect cells s (readForm m s use) := by
  obtain ⟨pl, t, hl, hacc⟩ := Accesses.locate (cells := cells) hi s
  rw [readForm, hl]
  exact hasEffect_next ((hacc.readPlace pl).advance _) (hu _ _)

theorem jumpForm_hasEffect (hi : m.name ≠ .implied) (ha : m.name ≠ .accumulator) (taken : Bool) :
    HasEffect cells s (jumpForm m s taken) := by
  obtain ⟨ea, t, hr⟩ := resolve_ok m s (fun h => hi (congrArg Mode.name h)) (fun h => ha (congrArg Mode.name h))
  rw [jumpForm_eq taken hr]
  exact hasEffect_next (Accesses.resolve hr) (by cases taken <;> rfl)

theorem pushForm_hasEffect (v : Byte) (hc : 256 + s.sp.toNat ∈ cells) : HasEffect cells s (pushForm s v) := by
  obtain ⟨u, hpush, -, hacc⟩ := (Accesses.refl.advance .implied).push v hc
  rw [pushForm, hpush]
  exact ⟨u, rfl, .accesses hacc⟩

theorem pullForm_hasEffect {use : Byte → State → State} (hu : ∀ v t, RegistersOnly t (use v t)) :
    HasEffect cells s (pullForm s use) := hasEffect_next (Accesses.refl.advance .implied).pop (hu _ _)

theorem callForm_hasEffect {ea : Addr} (hr : resolve m s = .ok (ea, s)) (hhi : 256 + s.sp.toNat ∈ cells)
    (hlo : 256 + (s.sp - 1).toNat ∈ cells) : HasEffect cells s (callForm m s) := by
  obtain ⟨t, ht, hsp, hacc⟩ := (Accesses.refl (cells := cells)).push (highByte (s.pc + 2)) hhi
  obtain ⟨u, hu, -, hacc⟩ := hacc.push (lowByte (s.pc + 2)) (by rwa [hsp])
  simp only [callForm, hr, ht, hu]
  exact hasEffect_next hacc rfl

/-- Where the resolved address reaches a cell, the cell is in the list. -/
def TargetIn (cells : List Nat) (m : Mode) (s : State) : Prop :=
  ∀ ea n, resolve m s = .ok (ea, s) → cellOf s.cfg ea = some n → n ∈ cells

/-- A store writes the cell its address reaches, or faults having drawn nothing (R101, R229-R231). -/
theorem storeForm_hasEffect (hi : m.name ≠ .implied) (ha : m.name ≠ .accumulator) (hm : m.name ≠ .immediate)
    (hj : m.name ≠ .indirect) (hc : TargetIn cells m s) (v : Byte) : HasEffect cells s (storeForm m s v) := by
  have ha' : m ≠ .accumulator := fun h => ha (congrArg Mode.name h)
  obtain ⟨ea, hr⟩ := resolve_without_event s hi ha hj
  cases hw : busWrite s ea v with
  | error e =>
    obtain ⟨rfl, hb, -⟩ := busWrite_error hw
    exact ⟨_, storeForm_error hm ha' hr hw, .romWrite ea v hb rfl⟩
  | ok w =>
    exact ⟨_, storeForm_ok hm ha' hr hw, .accesses ((Accesses.refl.write hw fun n => hc ea n hr).advance _)⟩

/-- A read-modify-write writes A or the cell it reads, or faults having drawn nothing: what it read is PRG (R119). -/
theorem modifyForm_hasEffect (hi : m.name ≠ .implied) (hm : m.name ≠ .immediate) (hj : m.name ≠ .indirect)
    (hc : TargetIn cells m s) (f : Byte → Byte → Byte × Byte) : HasEffect cells s (modifyForm m s f) := by
  by_cases ha : m = .accumulator
  · rw [ha, modifyForm_accumulator]
    exact hasEffect_next Accesses.refl rfl
  obtain ⟨ea, hr⟩ := resolve_without_event s hi (fun h => ha (by cases m <;> cases h; rfl)) hj
  cases hw : busWrite (busRead s ea).2 ea (f (busRead s ea).1 (busRead s ea).2.p).1 with
  | error e =>
    obtain ⟨rfl, ⟨prg, hb⟩, hclass⟩ := busWrite_error hw
    rw [(busRead_readsOnly s ea).cfg_eq] at hb
    refine ⟨_, modifyForm_error f hm ha hr hw,
      .romWrite ea (f (busRead s ea).1 (busRead s ea).2.p).1 ⟨prg, hb⟩ ?_⟩
    rw [busRead_prg hb ((busClass_prg_iff ea).1 hclass)]
  | ok w =>
    refine ⟨_, modifyForm_ok f hm ha hr hw, .accesses (.registers (.write (.read ea .refl) hw fun n hn => ?_) rfl)⟩
    rw [(busRead_readsOnly s ea).cfg_eq] at hn
    exact hc ea n hr hn

end

/-! ### Every instruction -/

theorem Instr.admits_mode (i : Instr) : i.mnemonic.admits i.mode.name = true := by cases i <;> rfl

/-- A mode the mnemonic does not have is not the instruction's (R74). -/
theorem ne_of_admits {mn : Mnemonic} {n k : ModeName} (h : mn.admits n = true) (hk : mn.admits k = false) :
    n ≠ k := by
  rintro rfl
  exact nomatch h.symm.trans hk

/-- Each meaning has the effect of its shape, on the cells the instruction stores to (R122). -/
theorem exec_hasEffect (i : Instr) (s : State) : HasEffect (storedCells i s) s (exec i s) := by
  rw [exec_eq_meaning]
  have hadm := Instr.admits_mode i
  have target : i.mnemonic.stores = true → TargetIn (storedCells i s) i.mode s := fun hs ea n hr hn => by
    simp [storedCells, hs, hr, hn]
  have pushed : i.mnemonic ∈ [.pha, .php, .jsr] → 256 + s.sp.toNat ∈ storedCells i s := fun h => by
    simp only [List.mem_cons, List.not_mem_nil, or_false] at h
    rcases h with h | h | h <;> simp [storedCells, h, Mnemonic.stores, cellOf_stackAddr]
  have pushedLow : i.mnemonic = .jsr → 256 + (s.sp - 1).toNat ∈ storedCells i s := fun h => by
    simp [storedCells, h, Mnemonic.stores, cellOf_stackAddr]
  generalize storedCells i s = cells at *
  generalize i.mnemonic = mn at *
  generalize i.mode = m at *
  cases mn
  case adc | sbc | and | ora | eor | bit | cmp | cpx | cpy | lda | ldx | ldy =>
    dsimp only [meaning]
    refine readForm_hasEffect (ne_of_admits hadm rfl) ?_
    exact fun _ _ => rfl
  case asl | lsr | rol | ror | inc | dec =>
    exact modifyForm_hasEffect (ne_of_admits hadm rfl) (ne_of_admits hadm rfl) (ne_of_admits hadm rfl) (target rfl) _
  case sta | stx | sty =>
    exact storeForm_hasEffect (ne_of_admits hadm rfl) (ne_of_admits hadm rfl) (ne_of_admits hadm rfl)
      (ne_of_admits hadm rfl) (target rfl) _
  case bcc | bcs | beq | bne | bmi | bpl | bvc | bvs | jmp =>
    exact jumpForm_hasEffect (ne_of_admits hadm rfl) (ne_of_admits hadm rfl) _
  case pha | php => exact pushForm_hasEffect _ (pushed (by decide))
  case pla | plp =>
    dsimp only [meaning]
    refine pullForm_hasEffect ?_
    exact fun _ _ => rfl
  case jsr =>
    obtain ⟨ea, hr⟩ := resolve_without_event s (m := m) (ne_of_admits hadm rfl) (ne_of_admits hadm rfl)
      (ne_of_admits hadm rfl)
    exact callForm_hasEffect hr (pushed (by decide)) (pushedLow rfl)
  case rts => exact hasEffect_next Accesses.refl.popWord rfl
  case rti =>
    have hp : Accesses cells s ((pop s).2.setP (pop s).1) := Accesses.refl.pop.registers rfl
    exact hasEffect_next hp.popWord rfl
  case brk => exact ⟨_, rfl, .brk rfl⟩
  case inx | iny | dex | dey | tax | tay | tsx | txa | txs | tya | clc | cld | cli | clv | sec | sed | sei | nop =>
    dsimp only [meaning]
    refine impliedForm_hasEffect ?_
    exact fun _ => rfl

theorem exec_effect {i : Instr} {s u : State} (h : exec i s = .next u) : Effect (storedCells i s) s u := by
  obtain ⟨u', hu, heffect⟩ := exec_hasEffect i s
  rw [h] at hu
  cases hu
  exact heffect

/-- Settles O20: the writes among an instruction's accesses reach its stored cells alone, and a halt writes none. -/
theorem memoryFrame : Obligations.MemoryFrame := by
  intro i s u h
  cases exec_effect h with
  | accesses h => exact h.memory
  | brk h => exact h ▸ ⟨fun _ _ => rfl, fun _ => rfl⟩
  | romWrite ea v hb h => exact h ▸ ⟨fun _ _ => rfl, fun _ => rfl⟩

/-! ### Every step -/

theorem Accesses.trans {cells : List Nat} {s t u : State} (h : Accesses cells s t) (k : Accesses cells t u) :
    Accesses cells s u := by
  induction k with
  | refl => exact h
  | read addr _ ih => exact ih.read addr
  | write _ hw hc ih => exact ih.write hw hc
  | registers _ hu ih => exact ih.registers hu

/-- The only fault of the fetch is the undefined opcode (R262). -/
theorem fetchInstr_error {s t : State} {e : HaltReason} (h : fetchInstr s = (.error e, t)) :
    ∃ op, e = .illegalOpcode op s.pc := by
  simp only [fetchInstr] at h
  cases ho : opcodeForm (busRead s s.pc).1 with
  | none =>
    rw [ho] at h
    cases h
    exact ⟨_, rfl⟩
  | some form => cases form <;> rw [ho] at h <;> cases h

/-- All a step can do: accesses of its fetch and its meaning, the same ending in BRK's halt, or a fault's halt that
discards all but the draws of the fetch; RomWrite is the famicom map's alone (R101, R247, R260). -/
inductive StepEffect (s u : State) : Prop
  | accesses (cells : List Nat) (h : Accesses cells s u)
  | brk (cells : List Nat) (t : State) (pc0 : Addr) (h : Accesses cells s t) (hu : u = haltBrk t pc0)
  | fault (e : HaltReason) (he : e.isFault = true)
      (hrom : ∀ ea v, e = .romWrite ea v → ∃ prg, s.cfg.bus = .famicom prg)
      (hu : u = raise s (fetchInstr s).2 e)

/-- A step has the effects of its fetch and of the fetched instruction, settled (R100, R101). -/
theorem step_effect {s u : State} (h : step s = .next u) : StepEffect s u := by
  have hrun := running_of_step h
  have hfetch : Accesses [] s (fetchInstr s).2 := .fetchInstr s
  cases hf : fetchInstr s with
  | mk r t =>
  rw [hf] at hfetch
  cases r with
  | error e =>
    rw [step_of_fetch_error hrun hf] at h
    cases h
    obtain ⟨op, rfl⟩ := fetchInstr_error hf
    exact .fault (.illegalOpcode op s.pc) rfl nofun (by rw [hf])
  | ok i =>
    obtain ⟨v, hv⟩ := exec_next i t
    rw [step_of_fetch hrun hf hv] at h
    cases h
    cases exec_effect hv with
    | accesses hacc =>
      have hvrun : v.run = .running := by rw [hacc.run_eq, hfetch.run_eq, hrun]
      rw [settle_of_not_faulted s (by rw [hvrun]; rfl)]
      exact .accesses _ (.trans (.fetchInstr s) (by rwa [hf]))
    | brk hbrk =>
      rw [hbrk, settle_of_not_faulted s rfl]
      exact .brk _ _ _ (hfetch.advance .implied) rfl
    | romWrite ea w hb hrom =>
      rw [hrom, settle_of_faulted s rfl]
      rw [hfetch.cfg_eq] at hb
      exact .fault (.romWrite ea w) rfl (fun _ _ _ => hb) (by rw [hf]; rfl)

/-- Settles O14: accesses of flat memory log and draw nothing, and RomWrite is the famicom map's alone. -/
theorem flatMapHasNoEventsOrRomWrite : Obligations.FlatMapHasNoEventsOrRomWrite := by
  intro s u hb h
  have hrun := running_of_step h
  cases step_effect h with
  | accesses cells hacc =>
    obtain ⟨hl, hd⟩ := hacc.flat hb
    exact ⟨hl, hd, fun ea v => by rw [hacc.run_eq, hrun]; nofun⟩
  | brk cells t pc0 hacc hu =>
    obtain ⟨hl, hd⟩ := hacc.flat hb
    exact hu ▸ ⟨hl, hd, nofun⟩
  | fault e he hrom hu =>
    obtain ⟨-, hd⟩ := (Accesses.fetchInstr (cells := []) s).flat hb
    refine hu ▸ ⟨rfl, hd, fun ea v heq => ?_⟩
    obtain ⟨prg, hprg⟩ := hrom ea v (RunState.halted.inj heq)
    exact nomatch hb.symm.trans hprg

/-! ### The numbering of draws -/

/-- A read of the PPU window answers the next draw and raises the counter (R42, R45). -/
theorem busRead_ppu {s : State} {prg : PrgImage} {addr : Addr} (hb : s.cfg.bus = .famicom prg)
    (h1 : 0x2000 ≤ addr.toNat) (h2 : addr.toNat ≤ 0x3FFF) :
    busRead s addr =
      (Config.ppuRead s.draws addr, (s.logEvent (.ppuRead addr (Config.ppuRead s.draws addr))).countDraw) := by
  have hclass : busClass addr = .ppu := by rw [busClass_eq, if_neg (by omega), if_pos h2]
  simp only [busRead, hb, hclass]

/-- A step that ends in no fault numbers its PPU reads one after another (R45). -/
theorem step_drawsNumbered {s u : State} (h : step s = .next u) (hu : u.run.faulted = false) : DrawsNumbered s u := by
  cases step_effect h with
  | accesses cells hacc => exact hacc.drawsNumbered
  | brk cells t pc0 hacc heq => exact heq ▸ hacc.drawsNumbered.trans (.of_eq rfl rfl)
  | fault e he hrom heq =>
    rw [heq, raise_run, RunState.faulted, he] at hu
    cases hu

/-- A step that ends in a fault keeps the counter its fetch left (R101, log entry 6). -/
theorem step_faulted_draws {s u : State} (h : step s = .next u) (hu : u.run.faulted = true) :
    u.draws = (fetchInstr s).2.draws := by
  cases step_effect h with
  | accesses cells hacc =>
    rw [hacc.run_eq, running_of_step h] at hu
    cases hu
  | brk cells t pc0 hacc heq =>
    rw [heq] at hu
    cases hu
  | fault e he hrom heq => rw [heq, raise_draws]

/-- The state in which Reset reads its vector (R301). -/
def clearedForReset (s : State) : State :=
  { s with a := 0x00, x := 0x00, y := 0x00, p := 0x00, sp := 0xFF, run := .running, log := [] }

/-- Reset reads the vector from the cleared state, and only PC, the log and the draws come from that read (R301). -/
theorem hostReset_eq (s : State) (v : Addr) :
    hostReset s v = { clearedForReset s with
      pc := (memRead2 (clearedForReset s) v).1
      log := (memRead2 (clearedForReset s) v).2.log
      draws := (memRead2 (clearedForReset s) v).2.draws } :=
  congrArg (State.setPc · (memRead2 (clearedForReset s) v).1) (readWordAt_readsOnly (clearedForReset s) v (v + 1))

/-- Settles O48, from the numbering of the accesses of a step and of Reset. -/
theorem ppuReadsDrawAfresh : Obligations.PpuReadsDrawAfresh := by
  refine ⟨fun s prg addr hb h1 h2 => ?_, fun s u => step_drawsNumbered,
    fun s u h hu => ⟨fetchInstr_drawsNumbered s, step_faulted_draws h hu⟩, fun s v => ?_, applyHook_draws_le⟩
  · rw [busRead_ppu hb h1 h2]
    exact ⟨rfl, rfl⟩
  · have hclear : DrawsNumbered { s with log := [] } (clearedForReset s) := .of_eq rfl rfl
    have hread := hclear.trans (readWordAt_drawsNumbered (clearedForReset s) v (v + 1))
    exact hread.trans (.of_eq rfl rfl)

/-! ### The host's Load -/

/-- The byte copied to the base is the last to land there only if no later one wraps round to it. -/
theorem loadedByte_cons (v before : Byte) (rest : List Byte) (base : Addr) {n : Nat} (hn : n < 65536) :
    loadedByte (v :: rest) base.toNat n before =
      loadedByte rest (base + 1).toNat n (if n = base.toNat then v else before) := by
  have hbase := base.isLt
  have hnext : (base + 1).toNat = (base.toNat + 1) % 65536 := by rw [BitVec.toNat_add]; rfl
  simp only [loadedByte, List.length_cons, hnext]
  by_cases hk : n = base.toNat
  · have h0 : (n + 65536 - base.toNat) % 65536 = 0 := by omega
    have hlast : (n + 65536 - (base.toNat + 1) % 65536) % 65536 = 65535 := by omega
    rw [h0, hlast, if_pos (by omega), if_pos hk]
    by_cases hwrap : 65535 < rest.length
    · rw [if_pos hwrap, show 0 + 65536 * ((rest.length + 1 - 1 - 0) / 65536)
        = 65535 + 65536 * ((rest.length - 1 - 65535) / 65536) + 1 by omega, List.getD_cons_succ]
    · rw [if_neg hwrap, show 0 + 65536 * ((rest.length + 1 - 1 - 0) / 65536) = 0 by omega, List.getD_cons_zero]
  · obtain ⟨k, hk0, hk1⟩ : ∃ k, (n + 65536 - base.toNat) % 65536 = k + 1 ∧
        (n + 65536 - (base.toNat + 1) % 65536) % 65536 = k := ⟨_, by omega, rfl⟩
    rw [hk0, hk1, if_neg hk, show rest.length + 1 - 1 - (k + 1) = rest.length - 1 - k by omega,
      show k + 1 + 65536 * ((rest.length - 1 - k) / 65536) = k + 65536 * ((rest.length - 1 - k) / 65536) + 1 by omega,
      List.getD_cons_succ]
    simp only [Nat.add_lt_add_iff_right]

/-- What a cell holds after the copy (R61, R63). -/
theorem read_copyBytes (bytes : List Byte) (m : Memory) (base : Addr) {n : Nat} (hn : n < 65536) :
    Memory.read (copyBytes m base bytes) n = loadedByte bytes base.toNat n (Memory.read m n) := by
  induction bytes generalizing m base with
  | nil => simp [copyBytes, loadedByte]
  | cons v rest ih =>
    rw [copyBytes, ih, loadedByte_cons v _ rest base hn]
    congr 1
    by_cases hk : n = base.toNat
    · rw [if_pos hk, hk, Memory.read_write_same]
    · rw [if_neg hk, Memory.read_write_other _ _ hk]

/-- Settles O56: the vector is written last, over whatever bytes landed on its two cells. -/
theorem hostLoadWritesProgram : Obligations.HostLoadWritesProgram := by
  constructor
  · intro s bytes base hb
    refine ⟨s.setMem _, by rw [hostLoad, hb], rfl, fun n hn => ?_⟩
    rw [State.setMem_mem]
    by_cases hhi : n = 0xFFFD
    · have hne : n ≠ 0xFFFC := by omega
      rw [if_neg hne, if_pos hhi, hhi, Memory.read_write_same, ← highByte_toNat, BitVec.ofNat_toNat,
        BitVec.setWidth_eq]
    rw [Memory.read_write_other _ _ hhi, if_neg hhi]
    by_cases hlo : n = 0xFFFC
    · rw [if_pos hlo, hlo, Memory.read_write_same, ← lowByte_toNat, BitVec.ofNat_toNat, BitVec.setWidth_eq]
    · rw [Memory.read_write_other _ _ hlo, if_neg hlo, read_copyBytes bytes s.mem base hn]
  · intro s bytes base prg hb
    rw [hostLoad, hb]

/-! ### The famicom launch -/

/-- The admitted lengths are the two of R34 (D3). -/
theorem prgOfBytes_admitted {bytes : List Byte} (h : bytes.length = 16384 ∨ bytes.length = 32768) :
    ∃ prg, prgOfBytes bytes = .ok prg := by
  rcases h with h | h
  · exact ⟨_, if_pos h⟩
  · exact ⟨_, (if_neg (by rw [h]; decide)).trans (if_pos h)⟩

theorem prgOfBytes_refused {bytes : List Byte} (h1 : bytes.length ≠ 16384) (h2 : bytes.length ≠ 32768) :
    prgOfBytes bytes = .error (.prgLength bytes.length) :=
  (if_neg h1).trans (if_neg h2)

/-- A 16-bit read inside the PRG window joins two bytes of the image and changes nothing (R47, R50). -/
theorem memRead2_prg {s : State} {prg : PrgImage} {addr : Addr} (hb : s.cfg.bus = .famicom prg)
    (h1 : 0x8000 ≤ addr.toNat) (h2 : addr.toNat < 0xFFFF) :
    memRead2 s addr =
      (wordOf (prgByte prg ((addr.toNat + 1 - 0x8000) % prg.size.bytes))
        (prgByte prg ((addr.toNat - 0x8000) % prg.size.bytes)), s) := by
  have hnext : (addr + 1).toNat = addr.toNat + 1 := BitVec.toNat_add_of_lt (by simpa using by omega)
  have hhi := busRead_prg (addr := addr + 1) hb (by omega)
  rw [hnext] at hhi
  simp only [memRead2, readWordAt, busRead_prg hb h1, hhi]

/-- Settles O58: Reset keeps the image and the empty memory of creation, and reads its vector from the image. -/
theorem famicomLaunchEntersImage : Obligations.FamicomLaunchEntersImage := by
  intro c bytes
  refine ⟨fun h1 h2 => by rw [launchFamicom, prgOfBytes_refused h1 h2], fun hlen => ?_⟩
  obtain ⟨prg, hprg⟩ := prgOfBytes_admitted hlen
  obtain ⟨hwf, hsize, hbytes⟩ := prgOfBytes_ok hprg
  have hvector : ∀ {t : State}, t.cfg.bus = .famicom prg → 0x8000 ≤ c.resetVector.toNat →
      c.resetVector.toNat < 0xFFFF → (memRead2 t c.resetVector).2 = t ∧ (memRead2 t c.resetVector).1.toNat =
        256 * (bytes.getD ((c.resetVector.toNat + 1 - 0x8000) % bytes.length) 0).toNat +
          (bytes.getD ((c.resetVector.toNat - 0x8000) % bytes.length) 0).toNat := fun hb h1 h2 => by
    rw [memRead2_prg hb h1 h2, hsize, hbytes, hbytes, wordOf_toNat]
    exact ⟨rfl, rfl⟩
  refine ⟨_, prg, by rw [launchFamicom, hprg], ?_⟩
  rw [hostReset_eq]
  refine ⟨rfl, hwf, fun addr haddr => ?_, rfl, rfl, rfl, rfl, rfl, rfl, rfl, fun h1 h2 => ?_, fun hv => ?_⟩
  · rw [busRead_prg (prg := prg) rfl haddr, hsize, hbytes]
  · obtain ⟨hsame, hpc⟩ := hvector (t := clearedForReset (createdState { c with bus := .famicom prg })) rfl h1 h2
    exact ⟨by rw [hsame]; rfl, hpc⟩
  · obtain ⟨-, hpc⟩ := hvector (t := clearedForReset (createdState { c with bus := .famicom prg })) rfl
      (by rw [hv]; decide) (by rw [hv]; decide)
    rw [hpc, hv]
    rcases hlen with hl | hl <;> rw [hl] <;> rfl

end Sys2Proof.Machine

/-!
PROOFS. The family of the encoding: the two round trips of decoder and encoder, the undefined opcodes, and what the
opcode byte fixes (R70-R78).

Both round trips are one equivalence, `decode_eq_ok_iff`: the decoder answers an instruction exactly on its encoding.
It comes from the two directions of R74's grid: the opcode of an instruction selects a form that reads the instruction
(`opcodeForm_opcode`), and what an entry's form reads has the entry's opcode (`gridRow_encodes`).
-/

namespace Sys2Proof

open Machine (State wordOf lowByte highByte wordOf_high_low lowByte_wordOf highByte_wordOf busRead fetchInstr
  undefinedOpcodes step_of_fetch_error)

/-! ### What a form reads -/

/-- The form makes the instruction of these operand bytes (R71, R72). -/
inductive OpcodeForm.Reads : OpcodeForm → List Byte → Instr → Prop
  | bare (i : Instr) : Reads (.bare i) [] i
  | withByte (build : Byte → Instr) (v : Byte) : Reads (.withByte build) [v] (build v)
  | withWord (build : Addr → Instr) (w : Addr) : Reads (.withWord build) [lowByte w, highByte w] (build w)

/-- Two bytes are read as the little-endian word they make (R72). -/
theorem OpcodeForm.Reads.littleEndian (build : Addr → Instr) (lo hi : Byte) :
    Reads (.withWord build) [lo, hi] (build (wordOf hi lo)) := by
  simpa only [lowByte_wordOf, highByte_wordOf] using Reads.withWord build (wordOf hi lo)

/-- The decoder answers by the form its first byte selects, on the operand bytes that form reads. -/
theorem decode_eq_ok_iff_reads {bytes rest : List Byte} {i : Instr} :
    decode bytes = .ok (i, rest) ↔
      ∃ op operands f, bytes = op :: operands ++ rest ∧ opcodeForm op = some f ∧ f.Reads operands i := by
  constructor
  · intro h
    match bytes with
    | [] => cases h
    | op :: tail =>
      cases ho : opcodeForm op with
      | none => simp [decode, ho] at h
      | some f =>
        match f, tail with
        | .bare j, _ =>
          obtain ⟨rfl, rfl⟩ : j = i ∧ _ := by simpa [decode, ho] using h
          exact ⟨op, [], _, rfl, ho, .bare j⟩
        | .withByte build, [] => simp [decode, ho] at h
        | .withByte build, v :: _ =>
          obtain ⟨rfl, rfl⟩ : build v = i ∧ _ := by simpa [decode, ho] using h
          exact ⟨op, [v], _, rfl, ho, .withByte build v⟩
        | .withWord build, [] => simp [decode, ho] at h
        | .withWord build, [_] => simp [decode, ho] at h
        | .withWord build, lo :: hi :: _ =>
          obtain ⟨rfl, rfl⟩ : build (wordOf hi lo) = i ∧ _ := by simpa [decode, ho] using h
          exact ⟨op, [lo, hi], _, rfl, ho, .littleEndian build lo hi⟩
  · rintro ⟨op, operands, f, rfl, ho, hr⟩
    cases hr with
    | bare => simp [decode, ho]
    | withByte => simp [decode, ho]
    | withWord => simp [decode, ho, wordOf_high_low]

/-! ### The two directions of the grid -/

/-- The opcode of an instruction selects a form that reads the instruction from its operand bytes (R74). -/
theorem opcodeForm_opcode (i : Instr) :
    ∃ f, opcodeForm i.opcode = some f ∧ f.Reads i.mode.operandBytes i := by
  cases i <;> dsimp only [Instr.opcode] <;> exact ⟨_, rfl, by constructor⟩

/-- What the entry's form reads is encoded by the entry's opcode and the bytes that were read. -/
def OpcodeRow.Encodes (row : OpcodeRow) : Prop :=
  ∀ operands i, row.2.Reads operands i → encode i = row.1 :: operands

/-- Every entry of the grid of R74 encodes what it reads. -/
theorem gridRow_encodes (n : Nat) : ∀ row ∈ gridRow n, OpcodeRow.Encodes row := by
  unfold gridRow
  split
  all_goals
    repeat refine List.forall_mem_cons.2 ⟨by rintro _ _ ⟨⟩; rfl, ?_⟩
    exact List.forall_mem_nil _

/-- The form found for an opcode stands with that opcode in the list that was searched. -/
theorem findOpcode_mem {op : Byte} {f : OpcodeForm} {rows : List OpcodeRow} (h : findOpcode op rows = some f) :
    (op, f) ∈ rows := by
  induction rows with
  | nil => cases h
  | cons row rest ih =>
    rw [findOpcode] at h
    split at h
    · next hop =>
      obtain rfl := Option.some.inj h
      exact hop ▸ List.mem_cons_self
    · exact List.mem_cons_of_mem _ (ih h)

/-- What the form of an opcode reads is encoded by that opcode and the bytes that were read (R74). -/
theorem encode_of_reads {op : Byte} {f : OpcodeForm} {operands : List Byte} {i : Instr} (ho : opcodeForm op = some f)
    (hr : f.Reads operands i) : encode i = op :: operands :=
  gridRow_encodes _ _ (findOpcode_mem ho) _ _ hr

/-! ### The round trips -/

/-- The decoder answers an instruction exactly on the instruction's encoding (R70-R74). -/
theorem decode_eq_ok_iff {bytes rest : List Byte} {i : Instr} :
    decode bytes = .ok (i, rest) ↔ encode i ++ rest = bytes := by
  rw [decode_eq_ok_iff_reads]
  constructor
  · rintro ⟨op, operands, f, rfl, ho, hr⟩
    rw [encode_of_reads ho hr]
  · rintro rfl
    obtain ⟨f, ho, hr⟩ := opcodeForm_opcode i
    exact ⟨i.opcode, _, f, rfl, ho, hr⟩

/-- Settles O1: well-formedness is not needed, for it holds of every `Instr`. -/
theorem decodeEncodeRoundTrip : Obligations.DecodeEncodeRoundTrip := fun _ _ _ => decode_eq_ok_iff.2 rfl

/-- Settles O2, by the same equivalence. -/
theorem encodeDecodeRoundTrip : Obligations.EncodeDecodeRoundTrip := fun _ _ _ => decode_eq_ok_iff.1

/-- Settles O4: each word is the encoding of its instruction. -/
theorem sampleWordsDecode : Obligations.SampleWordsDecode := by
  simp only [Obligations.SampleWordsDecode, decode_eq_ok_iff]
  decide

/-! ### The undefined opcodes -/

/-- R76 lists the bytes without an entry in the grid of R74, in rising order. -/
theorem undefinedOpcodes_eq_filter :
    undefinedOpcodes = (List.ofFn BitVec.ofFin).filter fun op => opcodeForm op = none := by decide

theorem opcodeForm_eq_none_iff (op : Byte) : opcodeForm op = none ↔ op ∈ undefinedOpcodes := by
  have hop : op ∈ List.ofFn BitVec.ofFin := List.mem_ofFn.2 ⟨op.toFin, rfl⟩
  rw [undefinedOpcodes_eq_filter, List.mem_filter, decide_eq_true_iff, and_iff_right hop]

theorem decode_of_undefined {op : Byte} (h : opcodeForm op = none) (rest : List Byte) :
    decode (op :: rest) = .error (.undefinedOpcode op) := by
  simp [decode, h]

/-- An undefined opcode is found before any operand byte is read (R262). -/
theorem fetchInstr_of_undefined {s : State} (h : opcodeForm (busRead s s.pc).1 = none) :
    fetchInstr s = (.error (.illegalOpcode (busRead s s.pc).1 s.pc), (busRead s s.pc).2) := by
  simp [fetchInstr, h]

/-- Settles O3: the list is the grid's complement, and the fetch's error is the step's fault. -/
theorem undefinedOpcodeFaults : Obligations.UndefinedOpcodeFaults := by
  refine ⟨by decide, opcodeForm_eq_none_iff, fun op hop => decode_of_undefined ((opcodeForm_eq_none_iff op).2 hop), ?_⟩
  rintro s _ hrun rfl hop
  exact ⟨_, step_of_fetch_error hrun (fetchInstr_of_undefined ((opcodeForm_eq_none_iff _).2 hop))⟩

/-! ### The table's rows -/

/-- The instruction of the form whose operand bytes are zero. -/
def OpcodeForm.sample : OpcodeForm → Instr
  | .bare i => i
  | .withByte build => build 0
  | .withWord build => build 0

/-- The mnemonic and the mode that name an instruction's row of R74. -/
def Instr.row (i : Instr) : Mnemonic × ModeName := (i.mnemonic, i.mode.name)

/-- The row of the instruction is told by its opcode alone: it is the row of the form's sample (R73). -/
theorem row_of_opcode (i : Instr) : (opcodeForm i.opcode).map (·.sample.row) = some i.row := by
  cases i <;> dsimp only [Instr.opcode] <;> rfl

/-- Settles O6: the row of each instruction is a function of its opcode. -/
theorem opcodeSelectsForm : Obligations.OpcodeSelectsForm := by
  intro i j h
  have hrow : some i.row = some j.row := by rw [← row_of_opcode, h, row_of_opcode]
  exact Prod.mk.inj (Option.some.inj hrow)

/-- The 13 modes of R71. -/
def modeNames : List ModeName :=
  [.implied, .accumulator, .immediate, .zeroPage, .zeroPageX, .zeroPageY, .absolute, .absoluteX, .absoluteY, .indirect,
    .indirectX, .indirectY, .relative]

theorem mem_modeNames (n : ModeName) : n ∈ modeNames := by cases n <;> decide

/-- Every mode a mnemonic admits stands in the grid with that mnemonic (R74). -/
theorem admitted_in_grid (mn : Mnemonic) :
    ∀ n ∈ modeNames, mn.admits n = true → ∃ k < 16, ∃ entry ∈ gridRow k, entry.2.sample.row = (mn, n) := by
  cases mn <;> decide

/-- Settles O5: an admitted mode has an entry in the grid, whose sample is the instruction. -/
theorem admittedFormsAreTheTable : Obligations.AdmittedFormsAreTheTable := by
  intro mn n
  constructor
  · intro h
    obtain ⟨_, -, _, -, hrow⟩ := admitted_in_grid mn n (mem_modeNames n) h
    exact ⟨_, Prod.mk.inj hrow⟩
  · rintro ⟨i, rfl, rfl⟩
    exact Machine.Instr.admits_mode i

end Sys2Proof

/-!
PROOFS. The family of the execution and the addressing: what one step runs and how it ends (R100-R103, R300), and what
each addressing mode resolves to (R104-R118).

The statements about steps follow from `step_effect` and the settling of a step. PC past the instruction (`EndsPast`)
is shown once for each shape of meaning, and the effective addresses come from the pointer reads told by cells
(`readZeroPagePointer_eq`).
-/

namespace Sys2Proof.Machine

/-! ### What a step runs and how it ends -/

/-- Settles O7: the bytes are the fetch's own, and the step is the meaning settled. -/
theorem stepRunsDecodedInstr : Obligations.StepRunsDecodedInstr := by
  intro s t i bytes hrun hf hd
  obtain ⟨u, hu⟩ := exec_next i t
  have hstep := step_of_fetch hrun (fetchInstr_of_decode hf hd) hu
  refine ⟨u, hu, fun hok => ?_, fun hfault => ⟨u.draws, ?_⟩⟩
  · rw [hstep, settle_of_not_faulted s hok]
  · rw [hstep, settle_of_faulted s hfault]

/-- A step ends running or halted: nothing in it awaits a Reset (R35, R300). -/
theorem step_not_awaitingReset {s u : State} (h : step s = .next u) : u.run ≠ .awaitingReset := by
  cases step_effect h with
  | accesses cells hacc => rw [hacc.run_eq, running_of_step h]; nofun
  | brk cells t pc0 hacc hu => rw [hu, haltBrk_run]; nofun
  | fault e he hrom hu => rw [hu, raise_run]; nofun

/-- A step that ends in a fault is the raise of that fault (R101). -/
theorem step_faulted {s u : State} (h : step s = .next u) (hu : u.run.faulted = true) :
    ∃ e, u = raise s (fetchInstr s).2 e := by
  cases step_effect h with
  | accesses cells hacc => rw [hacc.run_eq, running_of_step h] at hu; cases hu
  | brk cells t pc0 hacc hbrk => rw [hbrk, haltBrk_run] at hu; cases hu
  | fault e he hrom hraise => exact ⟨e, hraise⟩

/-- Settles O8: a step is a running core's alone, and Reset sets `run`. -/
theorem haltedCoreDoesNotStep : Obligations.HaltedCoreDoesNotStep := by
  refine ⟨fun s e => step_of_halted, fun s => step_of_awaitingReset, fun c => ⟨rfl, rfl, Memory.read_nil⟩,
    fun s u h => ⟨running_of_step h, step_not_awaitingReset h⟩, fun s v => ?_⟩
  rw [hostReset_eq]
  rfl

/-- Settles O9: a raise keeps all of the start but `run` and the draws. -/
theorem faultedStepHasNoEffect : Obligations.FaultedStepHasNoEffect := by
  intro s u h hu
  obtain ⟨e, rfl⟩ := step_faulted h hu
  rfl

/-! ### PC past the instruction -/

/-- The meaning's next state has PC past an instruction of this mode, or at the instruction if a fault halted it
(R101, R103). -/
def EndsPast (n : ModeName) (s : State) (r : Result) : Prop :=
  ∃ u, r = .next u ∧ u.pc = if u.run.faulted then s.pc else s.pc + BitVec.ofNat 16 n.length

/-- `u` has the PC and the run state of `t`. -/
def SamePcRun (t u : State) : Prop := u.pc = t.pc ∧ u.run = t.run

theorem ReadsOnly.samePcRun {s t : State} (h : ReadsOnly s t) : SamePcRun s t := by
  rw [h]
  exact ⟨rfl, rfl⟩

theorem SamePcRun.trans {s t u : State} (h : SamePcRun s t) (k : SamePcRun t u) : SamePcRun s u :=
  ⟨k.1.trans h.1, k.2.trans h.2⟩

theorem busWrite_samePcRun {s t : State} {addr : Addr} {v : Byte} (h : busWrite s addr v = .ok t) : SamePcRun s t := by
  rcases busWrite_ok h with ⟨n, -, rfl⟩ | ⟨-, e, rfl⟩ <;> exact ⟨rfl, rfl⟩

/-- A bus write's fault leaves PC at the instruction (R48, R101). -/
theorem endsPast_raise {n : ModeName} {s t w : State} {addr : Addr} {v : Byte} {e : HaltReason}
    (h : busWrite w addr v = .error e) : EndsPast n s (.next (raise s t e)) := by
  obtain ⟨rfl, -⟩ := busWrite_error h
  exact ⟨_, rfl, rfl⟩

section
variable {m : Mode} {s : State} (hrun : s.run = .running)
include hrun

/-- A running core that neither jumps nor halts ends past the instruction. -/
theorem endsPast_next {n : ModeName} {t u : State} (ht : SamePcRun s t) (hu : SamePcRun (t.advance n) u) :
    EndsPast n s (.next u) := by
  have hok : u.run.faulted = false := by
    rw [hu.2, State.advance_run, ht.2, hrun]
    rfl
  refine ⟨u, rfl, ?_⟩
  rw [hok, hu.1, State.advance_pc, ht.1]
  rfl

theorem impliedForm_endsPast {f : State → State} (hf : ∀ t, SamePcRun t (f t)) :
    EndsPast .implied s (impliedForm s f) := endsPast_next hrun ⟨rfl, rfl⟩ (hf _)

theorem readForm_endsPast (hi : m ≠ .implied) {use : Byte → State → State} (hu : ∀ v t, SamePcRun t (use v t)) :
    EndsPast m.name s (readForm m s use) := by
  obtain ⟨v, t, hop⟩ := operandRead_some m s hi
  rw [readForm_eq use hop]
  exact endsPast_next hrun (operandRead_readsOnly hop).samePcRun (hu v _)

theorem storeForm_endsPast (hi : m ≠ .implied) (ha : m ≠ .accumulator) (hm : m.name ≠ .immediate) (v : Byte) :
    EndsPast m.name s (storeForm m s v) := by
  obtain ⟨ea, t, hr⟩ := resolve_ok m s hi ha
  cases hw : busWrite t ea v with
  | error e =>
    rw [storeForm_error hm ha hr hw]
    exact endsPast_raise hw
  | ok w =>
    rw [storeForm_ok hm ha hr hw]
    exact endsPast_next hrun ((resolve_readsOnly hr).samePcRun.trans (busWrite_samePcRun hw)) ⟨rfl, rfl⟩

theorem modifyForm_endsPast (hi : m ≠ .implied) (hm : m.name ≠ .immediate) (f : Byte → Byte → Byte × Byte) :
    EndsPast m.name s (modifyForm m s f) := by
  by_cases ha : m = .accumulator
  · rw [ha, modifyForm_accumulator]
    exact endsPast_next hrun ⟨rfl, rfl⟩ ⟨rfl, rfl⟩
  obtain ⟨ea, t, hr⟩ := resolve_ok m s hi ha
  cases hw : busWrite (busRead t ea).2 ea (f (busRead t ea).1 (busRead t ea).2.p).1 with
  | error e =>
    rw [modifyForm_error f hm ha hr hw]
    exact endsPast_raise hw
  | ok w =>
    rw [modifyForm_ok f hm ha hr hw]
    have hread := ((resolve_readsOnly hr).trans (busRead_readsOnly t ea)).samePcRun
    exact endsPast_next hrun (hread.trans (busWrite_samePcRun hw)) ⟨rfl, rfl⟩

theorem pushForm_endsPast (v : Byte) : EndsPast .implied s (pushForm s v) := by
  rw [pushForm_eq]
  exact endsPast_next hrun ⟨rfl, rfl⟩ ⟨rfl, rfl⟩

theorem pullForm_endsPast {use : Byte → State → State} (hu : ∀ v t, SamePcRun t (use v t)) :
    EndsPast .implied s (pullForm s use) := by
  rw [pullForm_eq]
  exact endsPast_next hrun ⟨rfl, rfl⟩ (hu _ _)

/-- Each meaning that does not transfer control ends past the instruction, by its shape (R103, R122). -/
theorem exec_endsPast {i : Instr} (hi : i.mnemonic.transfersControl = false) :
    EndsPast i.mode.name s (exec i s) := by
  rw [exec_eq_meaning]
  have hadm := Instr.admits_mode i
  generalize i.mnemonic = mn at *
  generalize i.mode = m at *
  have other : ∀ {k : Mode}, mn.admits k.name = false → m ≠ k := fun hk h =>
    ne_of_admits hadm hk (congrArg Mode.name h)
  cases mn
  case bcc | bcs | beq | bne | bmi | bpl | bvc | bvs | jmp | jsr | rts | rti => cases hi
  case adc | sbc | and | ora | eor | bit | cmp | cpx | cpy | lda | ldx | ldy =>
    dsimp only [meaning]
    refine readForm_endsPast hrun (other rfl) ?_
    exact fun _ _ => ⟨rfl, rfl⟩
  case asl | lsr | rol | ror | inc | dec =>
    exact modifyForm_endsPast hrun (other rfl) (ne_of_admits hadm rfl) _
  case sta | stx | sty =>
    exact storeForm_endsPast hrun (other rfl) (other rfl) (ne_of_admits hadm rfl) _
  -- What is left has no operand: its mode is Implied (R104).
  all_goals rw [of_decide_eq_true hadm]
  case pha | php => exact pushForm_endsPast hrun _
  case pla | plp =>
    dsimp only [meaning]
    refine pullForm_endsPast hrun ?_
    exact fun _ _ => ⟨rfl, rfl⟩
  case brk => exact ⟨_, rfl, rfl⟩
  case inx | iny | dex | dey | tax | tay | tsx | txa | txs | tya | clc | cld | cli | clv | sec | sed | sei | nop =>
    dsimp only [meaning]
    refine impliedForm_endsPast hrun ?_
    exact fun _ => ⟨rfl, rfl⟩

end

/-- Settles O21. -/
theorem programCounterRule : Obligations.ProgramCounterRule := by
  intro i s u hrun hi h
  obtain ⟨u', hu, hpc⟩ := exec_endsPast hrun hi
  rw [h] at hu
  cases hu
  exact hpc

/-! ### Effective addresses -/

/-- The resolver fails exactly on the modes without an address, with its sentinel (R104, R105, R117). -/
theorem resolve_error_iff {m : Mode} {s : State} {e : HaltReason} :
    resolve m s = .error e ↔ (m = .implied ∨ m = .accumulator) ∧ e = .resolverSentinel s.pc := by
  constructor
  · intro h
    cases m with
    | implied => cases h; exact ⟨.inl rfl, rfl⟩
    | accumulator => cases h; exact ⟨.inr rfl, rfl⟩
    | _ => cases h
  · rintro ⟨rfl | rfl, rfl⟩ <;> rfl

/-- Settles O46. -/
theorem resolverSentinelModes : Obligations.ResolverSentinelModes := by
  intro m s
  simp only [resolve_error_iff, exists_and_left, exists_eq, and_true, true_and]
  exact fun e h => h.2

/-- Settles O45: neither operand is read from the bus. -/
theorem registerAndImmediateOperands : Obligations.RegisterAndImmediateOperands := by
  intro s v
  have himm : operandRead (.immediate v) s = some (v, s) := rfl
  exact ⟨rfl, himm, fun use => ⟨_, rfl, readForm_eq use himm⟩⟩

/-- No mnemonic that has an immediate form writes its operand (R106). -/
theorem stores_of_admits_immediate (mn : Mnemonic) (h : mn.admits .immediate = true) : mn.stores = false := by
  revert h
  cases mn <;> decide

/-- Zero page by Y is LDX's and STX's alone (R109). -/
theorem mem_of_admits_zeroPageY (mn : Mnemonic) (h : mn.admits .zeroPageY = true) : mn ∈ [Mnemonic.ldx, .stx] := by
  revert h
  cases mn <;> decide

/-- A pointer in page 0 is the word of two cells, the high byte's address wrapping in the page, and reading it changes
nothing (R114, R115). -/
theorem readZeroPagePointer_eq (s : State) (ptr : Byte) :
    readZeroPagePointer s ptr =
      (wordOf (Memory.read s.mem ((ptr.toNat + 1) % 256)) (Memory.read s.mem ptr.toNat), s) := by
  have hhi : (ptr + 1).toNat = (ptr.toNat + 1) % 256 := BitVec.toNat_add ptr 1
  simp only [readZeroPagePointer, readWordAt, busRead_of_cell (cellOf_zext16 s.cfg _), hhi]

theorem resolve_indirectX (s : State) (zp : Byte) : ∃ ea, resolve (.indirectX zp) s = .ok (ea, s) ∧
    ea.toNat = 256 * (Memory.read s.mem ((zp.toNat + s.x.toNat + 1) % 256)).toNat +
      (Memory.read s.mem ((zp.toNat + s.x.toNat) % 256)).toNat := by
  refine ⟨_, congrArg Except.ok (readZeroPagePointer_eq s (zp + s.x)), ?_⟩
  rw [wordOf_toNat, BitVec.toNat_add, Nat.mod_add_mod]

theorem resolve_indirectY (s : State) (zp : Byte) : ∃ ea, resolve (.indirectY zp) s = .ok (ea, s) ∧
    ea.toNat = (256 * (Memory.read s.mem ((zp.toNat + 1) % 256)).toNat + (Memory.read s.mem zp.toNat).toNat +
      s.y.toNat) % 65536 := by
  refine ⟨_, by rw [resolve, readZeroPagePointer_eq], ?_⟩
  rw [BitVec.toNat_add, wordOf_toNat, zext16_toNat]

/-- A displacement is added as a signed byte, modulo 65536 (R116). -/
theorem toNat_add_sext16 (w : Addr) (d : Byte) :
    ((w + sext16 d).toNat : Int) = ((w.toNat : Int) + d.toInt) % 65536 := by
  have hsplit := BitVec.toInt_eq_toNat_cond (sext16 d)
  rw [BitVec.toNat_add, ← sext16_toInt d]
  split at hsplit <;> omega

/-- Settles O44: the modes that read no pointer are sums of bytes and words, told by numbers. -/
theorem effectiveAddresses : Obligations.EffectiveAddresses := by
  refine ⟨fun n => by cases n <;> rfl, fun i => ⟨fun h => ?_, fun h => ?_⟩, fun s => ?_⟩
  · exact stores_of_admits_immediate _ (h ▸ Instr.admits_mode i)
  · exact mem_of_admits_zeroPageY _ (h ▸ Instr.admits_mode i)
  have page : ∀ zp r : Byte, (zext16 (zp + r)).toNat = (zp.toNat + r.toNat) % 256 := fun zp r => by
    rw [zext16_toNat, BitVec.toNat_add]
  have word : ∀ (w : Addr) (r : Byte), (w + zext16 r).toNat = (w.toNat + r.toNat) % 65536 := fun w r => by
    rw [BitVec.toNat_add, zext16_toNat]
  refine ⟨fun v => ⟨_, rfl, BitVec.toNat_add s.pc 1⟩, fun zp => ⟨_, rfl, zext16_toNat zp⟩,
    fun zp => ⟨_, rfl, page zp s.x⟩, fun zp => ⟨_, rfl, page zp s.y⟩, fun w => rfl,
    fun w => ⟨_, rfl, word w s.x⟩, fun w => ⟨_, rfl, word w s.y⟩,
    resolve_indirectX s, resolve_indirectY s, fun disp => ⟨_, rfl, ?_⟩⟩
  have hpc : (s.pc + 2).toNat = (s.pc.toNat + 2) % 65536 := BitVec.toNat_add s.pc 2
  rw [toNat_add_sext16, hpc]
  omega

end Sys2Proof.Machine

/-!
PROOFS. The family of the arithmetic: ADC and SBC (R140, R141).

An instruction's rows are read off the grid of R74 (`hasForms_iff`), a reading instruction is `use` of its operand with
PC past it (`exec_of_readForm`), and the ALU's sum is told by numbers. SBC is ADC of the operand's inverse, whose number
is `255 - M`, or `-1 - M` signed: each of its facts is the fact of the sum at that operand.
-/

namespace Sys2Proof

open Machine (HasForms)

/-! ### The rows of a mnemonic -/

/-- The opcodes and modes of a mnemonic in the grid (R74). -/
def tableForms (mn : Mnemonic) : List (Byte × ModeName) :=
  (((List.range 16).flatMap gridRow).filter (·.2.sample.mnemonic = mn)).map fun row => (row.1, row.2.sample.mode.name)

theorem OpcodeForm.reads_sample (f : OpcodeForm) : ∃ operands, f.Reads operands f.sample := by
  cases f with
  | bare i => exact ⟨_, .bare i⟩
  | withByte build => exact ⟨_, .withByte build 0⟩
  | withWord build => exact ⟨_, .withWord build 0⟩

/-- The sample of an entry's form has the entry's opcode. -/
theorem opcode_sample {n : Nat} {row : OpcodeRow} (h : row ∈ gridRow n) : row.2.sample.opcode = row.1 := by
  obtain ⟨operands, hr⟩ := row.2.reads_sample
  exact (List.cons.inj (gridRow_encodes n row h _ _ hr)).1

/-- An instruction's opcode stands in the grid with a form whose sample has the instruction's row (R74). -/
theorem opcode_mem_gridRow (i : Instr) : ∃ n < 16, ∃ f, (i.opcode, f) ∈ gridRow n ∧ f.sample.row = i.row := by
  obtain ⟨f, hf, hrow⟩ := Option.map_eq_some_iff.1 (row_of_opcode i)
  have hlt : i.opcode.toNat / 16 < 16 := Nat.div_lt_of_lt_mul i.opcode.isLt
  exact ⟨_, hlt, f, findOpcode_mem hf, hrow⟩

/-- The grid's entries of a mnemonic are its instructions' opcodes and modes (R74). -/
theorem mem_tableForms_iff {mn : Mnemonic} {f : Byte × ModeName} :
    f ∈ tableForms mn ↔ ∃ i : Instr, i.mnemonic = mn ∧ i.opcode = f.1 ∧ i.mode.name = f.2 := by
  simp only [tableForms, List.mem_map, List.mem_filter, List.mem_flatMap, List.mem_range, decide_eq_true_iff]
  constructor
  · rintro ⟨row, ⟨⟨n, -, hn⟩, rfl⟩, rfl⟩
    exact ⟨row.2.sample, rfl, opcode_sample hn, rfl⟩
  · rintro ⟨i, rfl, hop, hmode⟩
    obtain ⟨n, hlt, form, hmem, hrow⟩ := opcode_mem_gridRow i
    obtain ⟨hmn, hname⟩ := Prod.mk.inj hrow
    exact ⟨(i.opcode, form), ⟨⟨n, hlt, hmem⟩, hmn⟩, Prod.ext hop (hname.trans hmode)⟩

/-- The listed forms are the mnemonic's when the list and the grid's entries have the same members (R74). -/
theorem hasForms_iff {mn : Mnemonic} {forms : List (Byte × ModeName)} :
    HasForms mn forms ↔ tableForms mn ⊆ forms ∧ forms ⊆ tableForms mn := by
  refine and_congr ⟨fun h f hf => ?_, fun h i hi => h (mem_tableForms_iff.2 ⟨i, hi, rfl, rfl⟩)⟩
    (forall₂_congr fun _ _ => mem_tableForms_iff.symm)
  obtain ⟨i, hi, hop, hmode⟩ := mem_tableForms_iff.1 hf
  have hmem := h i hi
  rwa [hop, hmode] at hmem

end Sys2Proof

namespace Sys2Proof.Machine

/-! ### Bits told by numbers -/

theorem getLsbD_seven (v : Byte) : v.getLsbD 7 = decide (128 ≤ v.toNat) := BitVec.msb_eq_decide v

theorem carryNat_le_one (c : Bool) : carryNat c ≤ 1 := by cases c <;> decide

/-- The carry flag as a number is C of the status byte (R24). -/
theorem carryNat_getFlag (p : Byte) : carryNat (getFlag p .c) = carryOf p := by
  rw [getFlag_eq, carryNat, carryOf, show p.getLsbD Flag.c.bit = decide (p.toNat % 2 = 1) from Nat.testBit_zero _]
  split <;> simp_all

/-- The Zero and Negative helper gives the value's Z and N (R120). -/
theorem ZNof_setZN (p v : Byte) : ZNof (setZN p v) v := by
  refine ⟨?_, ?_⟩
  · rw [getLsbD_setZN, if_neg (by decide), if_pos rfl]
    exact decide_eq_decide.2 BitVec.toNat_inj.symm
  · rw [getLsbD_setZN, if_pos rfl, getLsbD_seven]

/-! ### The sum -/

theorem toNat_addWithCarry (a m : Byte) (c : Bool) :
    (addWithCarry a m c).value.toNat = (a.toNat + m.toNat + carryNat c) % 256 := BitVec.toNat_ofNat _ 8

theorem carry_addWithCarry (a m : Byte) (c : Bool) :
    (addWithCarry a m c).carry = decide (255 < a.toNat + m.toNat + carryNat c) := rfl

/-- Two operands of one sign and a result of the other is a signed sum out of range (R140). -/
theorem overflow_addWithCarry (a m : Byte) (c : Bool) :
    (addWithCarry a m c).overflow =
      decide (a.toInt + m.toInt + carryNat c < -128 ∨ 127 < a.toInt + m.toInt + carryNat c) := by
  have hr := toNat_addWithCarry a m c
  have hc := carryNat_le_one c
  have ha := BitVec.toInt_eq_toNat_cond a
  have hm := BitVec.toInt_eq_toNat_cond m
  have halt := a.isLt
  have hmlt := m.isLt
  refine decide_eq_decide.2 ((and_0x80_eq _).trans ?_)
  rw [BitVec.getLsbD_and, BitVec.getLsbD_xor, BitVec.getLsbD_xor]
  change ((a.getLsbD 7 ^^ (addWithCarry a m c).value.getLsbD 7) &&
    (m.getLsbD 7 ^^ (addWithCarry a m c).value.getLsbD 7)) = true ↔ _
  simp only [getLsbD_seven, Bool.and_eq_true, bne_iff_ne, ne_eq, decide_eq_decide, hr]
  omega

/-! ### The difference -/

theorem subWithBorrow_eq (a m : Byte) (c : Bool) : subWithBorrow a m c = addWithCarry a (~~~m) c := by
  rw [subWithBorrow, show (0xFF : Byte) = BitVec.allOnes 8 from rfl, BitVec.xor_allOnes]

/-- The inverse of a signed byte (R141). -/
theorem toInt_not_eq (m : Byte) : (~~~m).toInt = -1 - m.toInt := by
  have hm := BitVec.toInt_eq_toNat_cond m
  have hn := BitVec.toInt_eq_toNat_cond (~~~m)
  have hmlt := m.isLt
  rw [BitVec.toNat_not] at hn
  omega

theorem toNat_subWithBorrow (a m : Byte) (c : Bool) :
    ((subWithBorrow a m c).value.toNat : Int) = ((a.toNat : Int) - m.toNat - (1 - carryNat c)) % 256 := by
  have hmlt := m.isLt
  rw [subWithBorrow_eq, toNat_addWithCarry, BitVec.toNat_not]
  omega

/-- The carry of the sum with the inverse is the not-borrow (R141). -/
theorem carry_subWithBorrow (a m : Byte) (c : Bool) :
    (subWithBorrow a m c).carry = decide (m.toNat + (1 - carryNat c) ≤ a.toNat) := by
  have hmlt := m.isLt
  have hc := carryNat_le_one c
  rw [subWithBorrow_eq, carry_addWithCarry, BitVec.toNat_not]
  exact decide_eq_decide.2 (by omega)

/-- The overflow of the sum with the inverse is that of the signed difference (R141). -/
theorem overflow_subWithBorrow (a m : Byte) (c : Bool) :
    (subWithBorrow a m c).overflow = decide (a.toInt - m.toInt - (1 - (carryNat c : Int)) < -128 ∨
      127 < a.toInt - m.toInt - (1 - (carryNat c : Int))) := by
  have hsum : a.toInt + (-1 - m.toInt) + carryNat c = a.toInt - m.toInt - (1 - (carryNat c : Int)) := by ring
  rw [subWithBorrow_eq, overflow_addWithCarry, toInt_not_eq, hsum]

/-! ### The flags and the instruction -/

theorem AgreeOn.setFlag {mask p q : Byte} (h : AgreeOn mask p q) (f : Flag) (b : Bool)
    (hf : mask.getLsbD f.bit = false) : AgreeOn mask (setFlag p f b) q := by
  refine agreeOn_iff.2 fun k hk => ?_
  have hne : k ≠ f.bit := by
    rintro rfl
    exact nomatch hf.symm.trans hk
  rw [getLsbD_setFlag, if_neg hne, agreeOn_iff.1 h k hk]

theorem AgreeOn.setZN {mask p q : Byte} (h : AgreeOn mask p q) (v : Byte) (hz : mask.getLsbD 1 = false)
    (hn : mask.getLsbD 7 = false) : AgreeOn mask (setZN p v) q :=
  (h.setFlag .z _ hz).setFlag .n _ hn

/-- ADC and SBC write C, V, Z and N (R140, R141). -/
theorem getLsbD_sumStatus (p : Byte) (r : SumResult) (k : Nat) :
    (sumStatus p r).getLsbD k = if k = 7 then r.value.getLsbD 7 else if k = 1 then decide (r.value = 0)
      else if k = 6 then r.overflow else if k = 0 then r.carry else p.getLsbD k := by
  rw [sumStatus, getLsbD_setZN, getLsbD_setFlag, getLsbD_setFlag]
  rfl

/-- The flags of ADC and SBC are those of the ALU's result, and the other bits of P are unchanged (R140, R141). -/
theorem sumStatus_flags (p : Byte) (r : SumResult) :
    (sumStatus p r).getLsbD 0 = r.carry ∧ (sumStatus p r).getLsbD 6 = r.overflow ∧ ZNof (sumStatus p r) r.value ∧
      AgreeOn 0x3C (sumStatus p r) p := by
  have hsame : AgreeOn 0x3C p p := rfl
  have hcv := (hsame.setFlag .c r.carry rfl).setFlag .v r.overflow rfl
  exact ⟨getLsbD_sumStatus p r 0, getLsbD_sumStatus p r 6, ZNof_setZN _ _, hcv.setZN r.value rfl rfl⟩

/-- An instruction whose meaning is a reading shape gives its operand to `use` with PC past it (R103, R118). -/
theorem exec_of_readForm {i : Instr} {s : State} {use : Byte → State → State}
    (hx : exec i s = readForm i.mode s use) (hi : i.mnemonic.admits .implied = false) :
    ∃ m t, operandRead i.mode s = some (m, t) ∧ ReadsOnly s t ∧
      exec i s = .next (use m (t.setPc (pcAfter i s))) := by
  have hmode : i.mode ≠ .implied := fun h => ne_of_admits (Instr.admits_mode i) hi (congrArg Mode.name h)
  obtain ⟨m, t, hop⟩ := operandRead_some i.mode s hmode
  have hro := operandRead_readsOnly hop
  have hpc : t.advance i.mode.name = t.setPc (pcAfter i s) := by rw [hro]; rfl
  exact ⟨m, t, hop, hro, by rw [hx, readForm_eq use hop, hpc]⟩

/-- What ADC and SBC do with their operand: the ALU's result into A, its flags into P (R140, R141). -/
def sumIntoA (alu : Byte → Byte → Bool → SumResult) (v : Byte) (t : State) : State :=
  (t.setA (alu t.a v (getFlag t.p .c)).value).setP (sumStatus t.p (alu t.a v (getFlag t.p .c)))

theorem addToA_eq (m : Mode) (s : State) : addToA m s = readForm m s (sumIntoA addWithCarry) := rfl

theorem subFromA_eq (m : Mode) (s : State) : subFromA m s = readForm m s (sumIntoA subWithBorrow) := rfl

/-- ADC and SBC put the ALU's result on the old A, the operand and the old carry into A and its flags into P, move PC
past the instruction, and change nothing else but what reading the operand does (R140, R141). -/
theorem exec_of_sumIntoA {i : Instr} {s : State} {alu : Byte → Byte → Bool → SumResult}
    (hx : exec i s = readForm i.mode s (sumIntoA alu)) (hi : i.mnemonic.admits .implied = false) :
    ∃ m t u, operandRead i.mode s = some (m, t) ∧ ReadsOnly s t ∧ exec i s = .next u ∧
      u = { t with a := u.a, p := u.p, pc := pcAfter i s } ∧
      u.a = (alu s.a m (getFlag s.p .c)).value ∧
      u.p.getLsbD 0 = (alu s.a m (getFlag s.p .c)).carry ∧
      u.p.getLsbD 6 = (alu s.a m (getFlag s.p .c)).overflow ∧ ZNof u.p u.a ∧ AgreeOn 0x3C u.p s.p := by
  obtain ⟨m, t, hop, hro, hu⟩ := exec_of_readForm hx hi
  refine ⟨m, t, _, hop, hro, hu, rfl, ?_⟩
  rw [hro]
  exact ⟨rfl, sumStatus_flags s.p (alu s.a m (getFlag s.p .c))⟩

/-- Settles O22: the sum, its carry and its overflow told by numbers. -/
theorem adcResult : Obligations.AdcResult := by
  refine ⟨hasForms_iff.2 (by decide), fun i s hi => ?_⟩
  have hx : exec i s = readForm i.mode s (sumIntoA addWithCarry) := by
    rw [exec_eq_meaning, hi]
    exact addToA_eq i.mode s
  obtain ⟨m, t, u, hop, hro, hu, hframe, ha, hc, hv, hflags⟩ := exec_of_sumIntoA hx (by rw [hi]; rfl)
  refine ⟨m, t, u, hop, hro, hu, hframe, ?_, ?_, ?_, hflags⟩
  · rw [ha, toNat_addWithCarry, carryNat_getFlag]
  · rw [hc, carry_addWithCarry, carryNat_getFlag]
  · rw [hv, overflow_addWithCarry, carryNat_getFlag]

/-- Settles O23: the difference, its not-borrow and its overflow told by numbers. -/
theorem sbcResult : Obligations.SbcResult := by
  refine ⟨hasForms_iff.2 (by decide), fun i s hi => ?_⟩
  have hx : exec i s = readForm i.mode s (sumIntoA subWithBorrow) := by
    rw [exec_eq_meaning, hi]
    exact subFromA_eq i.mode s
  obtain ⟨m, t, u, hop, hro, hu, hframe, ha, hc, hv, hflags⟩ := exec_of_sumIntoA hx (by rw [hi]; rfl)
  refine ⟨m, t, u, hop, hro, hu, hframe, ?_, ?_, ?_, hflags⟩
  · rw [ha, toNat_subWithBorrow, carryNat_getFlag]
  · rw [hc, carry_subWithBorrow, carryNat_getFlag]
  · rw [hv, overflow_subWithBorrow, carryNat_getFlag]

end Sys2Proof.Machine

/-!
PROOFS. The family of the logic: AND, ORA, EOR and BIT (R150-R153).

AND, ORA and EOR are one meaning over a bitwise operator (`meaning_logical`), so what they do to the state is said once
(`exec_of_combineA`) and the three differ in the operator's bits alone. BIT's flags are read off its status byte bit by
bit (`getLsbD_bitStatus`).
-/

namespace Sys2Proof.Machine

/-! ### AND, ORA, EOR -/

/-- The instruction puts the operator's value on the old A and the operand into A, sets Z and N by it, moves PC past
itself, and changes nothing else but what reading the operand does (R150-R152). -/
theorem exec_of_combineA {i : Instr} {s : State} {f : Byte → Byte → Byte} (hx : exec i s = combineA f i.mode s)
    (hi : i.mnemonic.admits .implied = false) :
    ∃ m t u, operandRead i.mode s = some (m, t) ∧ ReadsOnly s t ∧ exec i s = .next u ∧
      u = { t with a := u.a, p := u.p, pc := pcAfter i s } ∧
      u.a = f s.a m ∧ ZNof u.p u.a ∧ AgreeOn 0x7D u.p s.p := by
  obtain ⟨m, t, hop, hro, hu⟩ := exec_of_readForm hx hi
  refine ⟨m, t, _, hop, hro, hu, rfl, ?_⟩
  have hsame : AgreeOn 0x7D s.p s.p := rfl
  rw [hro]
  exact ⟨rfl, ZNof_setZN _ _, hsame.setZN _ rfl rfl⟩

/-- AND, ORA and EOR are one meaning, each over its own operator (R150-R152). -/
theorem meaning_logical {mn : Mnemonic} (h : mn ∈ [Mnemonic.and, .ora, .eor]) :
    ∃ f, meaning mn = combineA f ∧ mn.admits .implied = false ∧
      (mn = .and → f = (· &&& ·)) ∧ (mn = .ora → f = (· ||| ·)) ∧ (mn = .eor → f = (· ^^^ ·)) := by
  simp only [List.mem_cons, List.not_mem_nil, or_false] at h
  obtain rfl | rfl | rfl := h <;> exact ⟨_, rfl, rfl, by simp⟩

/-- Settles O24: one meaning for the three, and the bits of its operator. -/
theorem andOraEorResults : Obligations.AndOraEorResults := by
  refine ⟨hasForms_iff.2 (by decide), hasForms_iff.2 (by decide), hasForms_iff.2 (by decide), fun i s hi => ?_⟩
  obtain ⟨f, hf, himp, hand, hora, heor⟩ := meaning_logical hi
  have hx : exec i s = combineA f i.mode s := by rw [exec_eq_meaning, hf]
  obtain ⟨m, t, u, hop, hro, hu, hframe, ha, hflags⟩ := exec_of_combineA hx himp
  refine ⟨m, t, u, hop, hro, hu, hframe, fun h k => ?_, fun h k => ?_, fun h k => ?_, hflags⟩
  · rw [ha, hand h, BitVec.getLsbD_and]
  · rw [ha, hora h, BitVec.getLsbD_or]
  · rw [ha, heor h, BitVec.getLsbD_xor]

/-! ### BIT -/

theorem getLsbD_six (v : Byte) : v.getLsbD 6 = decide (64 ≤ v.toNat % 128) := by
  rw [BitVec.getLsbD, Nat.testBit_eq_decide_div_mod_eq]
  exact decide_eq_decide.2 (by omega)

/-- Two bytes have the conjunction zero when no bit is set in both. -/
theorem and_eq_zero_iff (a m : Byte) : a &&& m = 0 ↔ ∀ k, ¬ (a.getLsbD k = true ∧ m.getLsbD k = true) := by
  constructor
  · intro h k
    simpa using congrArg (·.getLsbD k) h
  · intro h
    refine BitVec.eq_of_getLsbD_eq fun k _ => ?_
    simpa using h k

/-- BIT writes V, N and Z, the first two from the operand alone (R153). -/
theorem getLsbD_bitStatus (p a m : Byte) (k : Nat) :
    (bitStatus p a m).getLsbD k = if k = 6 then m.getLsbD 6 else if k = 7 then m.getLsbD 7
      else if k = 1 then decide (a &&& m = 0) else p.getLsbD k := by
  rw [bitStatus, getLsbD_setFlag, getLsbD_setFlag, getLsbD_setFlag]
  rfl

/-- The flags of BIT told by the bits of A and M, and the other bits of P unchanged (R153). -/
theorem bitStatus_flags (p a m : Byte) :
    ((bitStatus p a m).getLsbD 1 = true ↔ ∀ k, ¬ (a.getLsbD k = true ∧ m.getLsbD k = true)) ∧
      (bitStatus p a m).getLsbD 7 = decide (128 ≤ m.toNat) ∧
      (bitStatus p a m).getLsbD 6 = decide (64 ≤ m.toNat % 128) ∧ AgreeOn 0x3D (bitStatus p a m) p := by
  have hsame : AgreeOn 0x3D p p := rfl
  refine ⟨?_, ?_, ?_, ((hsame.setFlag .z _ rfl).setFlag .n _ rfl).setFlag .v _ rfl⟩
  · rw [getLsbD_bitStatus, ← and_eq_zero_iff]
    exact decide_eq_true_iff
  · exact (getLsbD_bitStatus p a m 7).trans (getLsbD_seven m)
  · exact (getLsbD_bitStatus p a m 6).trans (getLsbD_six m)

/-- Settles O25: BIT is a reading shape that writes P alone, and its status byte has the stated bits. -/
theorem bitResult : Obligations.BitResult := by
  refine ⟨hasForms_iff.2 (by decide), fun i s hi => ?_⟩
  have hx : exec i s = testBits i.mode s := by rw [exec_eq_meaning, hi, meaning]
  obtain ⟨m, t, hop, hro, hu⟩ := exec_of_readForm hx (by rw [hi]; rfl)
  refine ⟨m, t, _, hop, hro, hu, rfl, ?_⟩
  rw [hro]
  exact bitStatus_flags s.p s.a m

end Sys2Proof.Machine

/-!
PROOFS. The family of the shifts and rotations: ASL, LSR, ROL and ROR (R160-R163).

The four are one read-modify-write shape over an ALU function (`exec_shift`). What the shape does to a cell is said
once, told by whether the resolved address is one that raises RomWrite (`exec_of_modifyForm_cell`), and each function's
result is told by numbers (`IsShiftOf`). The nine bits that ROL A turns, A's eight and C, form a ring (`ringBit`) in
which every bit moves one place up, so nine turns bring each back.
-/

namespace Sys2Proof.Machine

/-! ### Bus writes by their target -/

theorem romTarget_iff {c : Config} {ea : Addr} :
    romTarget c ea = true ↔ (∃ prg, c.bus = .famicom prg) ∧ busClass ea = .prg := by
  rw [busClass_prg_iff, romTarget]
  cases c.bus <;> simp

/-- A write to an address that is no ROM target succeeds (R48). -/
theorem busWrite_of_not_romTarget {s : State} {ea : Addr} (v : Byte) (h : romTarget s.cfg ea = false) :
    ∃ w, busWrite s ea v = .ok w := by
  cases hw : busWrite s ea v with
  | ok w => exact ⟨w, rfl⟩
  | error e => exact nomatch h.symm.trans (romTarget_iff.2 (busWrite_error hw).2)

/-- A write to a ROM target faults with the byte that would have been written (R48, R263). -/
theorem busWrite_of_romTarget {s : State} {ea : Addr} (v : Byte) (h : romTarget s.cfg ea = true) :
    busWrite s ea v = .error (.romWrite ea v) := by
  obtain ⟨⟨prg, hb⟩, hclass⟩ := romTarget_iff.1 h
  simp only [busWrite, hb, hclass]

/-- A read of a ROM target changes nothing (R42, R47). -/
theorem busRead_of_romTarget {s : State} {ea : Addr} (h : romTarget s.cfg ea = true) : (busRead s ea).2 = s := by
  obtain ⟨⟨prg, hb⟩, hclass⟩ := romTarget_iff.1 h
  rw [busRead_prg hb ((busClass_prg_iff ea).1 hclass)]

/-! ### Read-modify-write instructions -/

/-- A mnemonic that stores to its operand has no form without an address of its own, and none through JMP's pointer
(R74, R119). -/
theorem admits_of_stores {mn : Mnemonic} (h : mn.stores = true) :
    mn.admits .implied = false ∧ mn.admits .immediate = false ∧ mn.admits .indirect = false := by
  revert h
  cases mn <;> decide

/-- The accumulator mode has no operand bytes. -/
theorem Mode.eq_accumulator {m : Mode} (h : m.name = .accumulator) : m = .accumulator := by
  cases m <;> cases h
  rfl

/-- A read-modify-write of a cell: one read and one write at the one resolved address with PC past the instruction, or
RomWrite and no other effect (R48, R119). -/
theorem exec_of_modifyForm_cell {i : Instr} {s : State} {f : Byte → Byte → Byte × Byte}
    (hx : exec i s = modifyForm i.mode s f) (hs : i.mnemonic.stores = true) (ha : i.mode ≠ .accumulator) :
    ∃ ea m t, resolve i.mode s = .ok (ea, s) ∧ busRead s ea = (m, t) ∧ ReadsOnly s t ∧
      (romTarget s.cfg ea = false → ∃ w, busWrite t ea (f m s.p).1 = .ok w ∧
        exec i s = .next { w with p := (f m s.p).2, pc := pcAfter i s }) ∧
      (romTarget s.cfg ea = true → exec i s = .next { s with run := .halted (.romWrite ea (f m s.p).1) }) := by
  obtain ⟨himp, himm, hind⟩ := admits_of_stores hs
  have hadm := Instr.admits_mode i
  have hm := ne_of_admits hadm himm
  obtain ⟨ea, hr⟩ := resolve_without_event s (ne_of_admits hadm himp) (fun h => ha (Mode.eq_accumulator h))
    (ne_of_admits hadm hind)
  have hro := busRead_readsOnly s ea
  have hp : (busRead s ea).2.p = s.p := by rw [hro]
  refine ⟨ea, _, _, hr, rfl, hro, fun hrom => ?_, fun hrom => ?_⟩
  · rw [← hro.cfg_eq] at hrom
    obtain ⟨w, hw⟩ := busWrite_of_not_romTarget (f (busRead s ea).1 s.p).1 hrom
    have hpc : w.pc = s.pc := (hro.samePcRun.trans (busWrite_samePcRun hw)).1
    refine ⟨w, hw, ?_⟩
    rw [← hp] at hw
    rw [hx, modifyForm_ok f hm ha hr hw, hp, State.advance, hpc]
    rfl
  · have hw := busWrite_of_romTarget (f (busRead s ea).1 (busRead s ea).2.p).1 (hro.cfg_eq ▸ hrom)
    rw [hx, modifyForm_error f hm ha hr hw, hp, busRead_of_romTarget hrom]
    rfl

/-! ### The shifted byte -/

theorem toNat_shiftLeft_one (m : Byte) : (m <<< 1).toNat = 2 * m.toNat % 256 := by
  rw [BitVec.toNat_shiftLeft, Nat.shiftLeft_eq, Nat.mul_comm]

theorem toNat_shiftRight_one (m : Byte) : (m >>> 1).toNat = m.toNat / 2 := by
  rw [BitVec.toNat_ushiftRight, Nat.shiftRight_eq_div_pow]

/-- A carry set in a vacated bit adds the bit's weight (R162, R163). -/
theorem toNat_or_carry {v : Byte} (c : Bool) {f : Flag} (h : v.getLsbD f.bit = false) :
    (v ||| if c then f.mask else 0).toNat = (v.toNat + f.mask.toNat * carryNat c) % 256 := by
  cases c with
  | false => simp [carryNat, Nat.mod_eq_of_lt v.isLt]
  | true =>
    have hfree : v &&& f.mask = 0 := (and_eq_zero_iff _ _).2 fun k ⟨hv, hk⟩ => by
      rw [Flag.getLsbD_mask, decide_eq_true_iff] at hk
      exact nomatch (hk ▸ hv).symm.trans h
    rw [if_pos rfl, ← BitVec.add_eq_or_of_and_eq_zero _ _ hfree, BitVec.toNat_add, carryNat, if_pos rfl, Nat.mul_one]

/-- The old carry enters at the vacated bit 0 (R162). -/
theorem toNat_rolOf (m p : Byte) : (rolOf m p).1.toNat = (2 * m.toNat + carryOf p) % 256 := by
  have hfree : (m <<< 1).getLsbD Flag.c.bit = false := by simp [Flag.bit]
  have hor := toNat_or_carry (getFlag p .c) hfree
  rw [toNat_shiftLeft_one, carryNat_getFlag, Nat.mod_add_mod, show Flag.c.mask.toNat = 1 from rfl, Nat.one_mul] at hor
  exact hor

/-- The old carry enters at the vacated bit 7 (R163). -/
theorem toNat_rorOf (m p : Byte) : (rorOf m p).1.toNat = m.toNat / 2 + 128 * carryOf p := by
  have hfree : (m >>> 1).getLsbD Flag.n.bit = false := by simp [Flag.bit]
  have hor := toNat_or_carry (getFlag p .c) hfree
  have hm := m.isLt
  have hc := carryNat_le_one (getFlag p .c)
  rw [toNat_shiftRight_one, show Flag.n.mask.toNat = 128 from rfl, Nat.mod_eq_of_lt (by omega), carryNat_getFlag] at hor
  exact hor

theorem getLsbD_zero (v : Byte) : v.getLsbD 0 = decide (v.toNat % 2 = 1) := Nat.testBit_zero _

/-- The flags of a shift are the bit shifted out and the result's Z and N, and the other bits of P are unchanged
(R160-R163). -/
theorem shiftStatus_flags (p : Byte) (out : Bool) (r : Byte) :
    (shiftStatus p out r).getLsbD 0 = out ∧ ZNof (shiftStatus p out r) r ∧ AgreeOn 0x7C (shiftStatus p out r) p := by
  have hsame : AgreeOn 0x7C p p := rfl
  refine ⟨?_, ZNof_setZN _ _, (hsame.setFlag .c out rfl).setZN r rfl rfl⟩
  rw [shiftStatus, getLsbD_setZN, getLsbD_setFlag]
  rfl

/-- The function gives the mnemonic's result and flags, told by numbers (R160-R163). -/
def IsShiftOf (mn : Mnemonic) (f : Byte → Byte → Byte × Byte) : Prop :=
  ∀ m p, (f m p).1.toNat = modifiedValue mn m.toNat (carryOf p) ∧
    (f m p).2.getLsbD 0 = shiftedOut mn m.toNat ∧ ZNof (f m p).2 (f m p).1 ∧ AgreeOn 0x7C (f m p).2 p

/-- A function whose status byte is a shift's is the mnemonic's when its result and the bit it shifts out are. -/
theorem isShiftOf_of_shiftStatus {mn : Mnemonic} {f : Byte → Byte → Byte × Byte} {out : Byte → Bool}
    (hstatus : ∀ m p, (f m p).2 = shiftStatus p (out m) (f m p).1)
    (hvalue : ∀ m p, (f m p).1.toNat = modifiedValue mn m.toNat (carryOf p))
    (hout : ∀ m, out m = shiftedOut mn m.toNat) : IsShiftOf mn f := by
  intro m p
  rw [hstatus, ← hout]
  exact ⟨hvalue m p, shiftStatus_flags p (out m) (f m p).1⟩

theorem isShiftOf_aslOf : IsShiftOf .asl aslOf :=
  isShiftOf_of_shiftStatus (fun _ _ => rfl) (fun m _ => toNat_shiftLeft_one m) getLsbD_seven

theorem isShiftOf_lsrOf : IsShiftOf .lsr lsrOf :=
  isShiftOf_of_shiftStatus (fun _ _ => rfl) (fun m _ => toNat_shiftRight_one m) getLsbD_zero

theorem isShiftOf_rolOf : IsShiftOf .rol rolOf :=
  isShiftOf_of_shiftStatus (fun _ _ => rfl) toNat_rolOf getLsbD_seven

theorem isShiftOf_rorOf : IsShiftOf .ror rorOf :=
  isShiftOf_of_shiftStatus (fun _ _ => rfl) toNat_rorOf getLsbD_zero

/-! ### The four instructions -/

/-- ASL, LSR, ROL and ROR are one shape of meaning, each over its own function (R119, R160-R163). -/
theorem exec_shift {i : Instr} (h : i.mnemonic ∈ [Mnemonic.asl, .lsr, .rol, .ror]) :
    i.mnemonic.stores = true ∧ ∃ f, IsShiftOf i.mnemonic f ∧ ∀ s, exec i s = modifyForm i.mode s f := by
  simp only [exec_eq_meaning]
  generalize i.mnemonic = mn at *
  simp only [List.mem_cons, List.not_mem_nil, or_false] at h
  obtain rfl | rfl | rfl | rfl := h
  · exact ⟨rfl, aslOf, isShiftOf_aslOf, fun _ => rfl⟩
  · exact ⟨rfl, lsrOf, isShiftOf_lsrOf, fun _ => rfl⟩
  · exact ⟨rfl, rolOf, isShiftOf_rolOf, fun _ => rfl⟩
  · exact ⟨rfl, rorOf, isShiftOf_rorOf, fun _ => rfl⟩

/-- Settles O26: the read-modify-write shape on A and on a cell, with the function's result and flags. -/
theorem shiftRotateResults : Obligations.ShiftRotateResults := by
  refine ⟨hasForms_iff.2 (by decide), hasForms_iff.2 (by decide), hasForms_iff.2 (by decide),
    hasForms_iff.2 (by decide), fun i s hi ha => ?_, fun i s hi ha => ?_⟩
  · obtain ⟨-, f, hf, hx⟩ := exec_shift hi
    obtain ⟨hvalue, hout, hflags⟩ := hf s.a s.p
    have hu := hx s
    rw [ha, modifyForm_accumulator] at hu
    refine ⟨_, hu, ?_, hvalue, hout, hflags⟩
    rw [pcAfter, Instr.length, ha]
    rfl
  · obtain ⟨hs, f, hf, hx⟩ := exec_shift hi
    obtain ⟨ea, m, t, hr, hread, hro, hcell, hrom⟩ := exec_of_modifyForm_cell (hx s) hs ha
    obtain ⟨hvalue, hout, hflags⟩ := hf m s.p
    refine ⟨ea, m, t, hr, hread, hro, fun h => ?_, fun h => ⟨_, hvalue, hrom h⟩⟩
    obtain ⟨w, hw, hu⟩ := hcell h
    exact ⟨_, w, _, hvalue, hw, hu, rfl, hout, hflags⟩

/-! ### Nine rotations -/

/-- The nine bits that ROL A turns: A's eight, and C as the ninth (R162). -/
def ringBit (s : State) (k : Nat) : Bool := if k = 8 then s.p.getLsbD 0 else s.a.getLsbD k

/-- ROL moves the carry into bit 0 and every other bit one place up (R162). -/
theorem getLsbD_rolOf (m p : Byte) {k : Nat} (hk : k < 8) :
    (rolOf m p).1.getLsbD k = if k = 0 then p.getLsbD 0 else m.getLsbD (k - 1) := by
  rw [rolOf, BitVec.getLsbD_or, BitVec.getLsbD_shiftLeft, show getFlag p .c = p.getLsbD 0 from getFlag_eq p .c]
  cases k with
  | zero => cases p.getLsbD 0 <;> rfl
  | succ k => cases p.getLsbD 0 <;> simp [hk]

/-- ROL A turns the ring by one place (R162). -/
theorem exec_rolAccumulator_turns (s : State) :
    ∃ t, exec .rolAccumulator s = .next t ∧ ∀ k < 9, ringBit t ((k + 1) % 9) = ringBit s k := by
  refine ⟨_, modifyForm_accumulator s rolOf, fun k hk => ?_⟩
  have hout : (rolOf s.a s.p).2.getLsbD 0 = s.a.getLsbD 7 := (shiftStatus_flags _ _ _).1
  simp only [ringBit, State.setP_p, State.setP_a, State.setA_a, hout]
  obtain rfl | rfl | hlt : k = 8 ∨ k = 7 ∨ k < 7 := by omega
  · exact getLsbD_rolOf s.a s.p (by decide)
  · rfl
  · rw [Nat.mod_eq_of_lt (by omega), if_neg (by omega), if_neg (by omega), getLsbD_rolOf _ _ (by omega)]
    rfl

theorem execTimes_rolAccumulator_turns (n : Nat) (s : State) :
    ∃ u, execTimes .rolAccumulator n s = some u ∧ ∀ k < 9, ringBit u ((k + n) % 9) = ringBit s k := by
  induction n generalizing s with
  | zero => exact ⟨s, rfl, fun k hk => by rw [Nat.add_zero, Nat.mod_eq_of_lt hk]⟩
  | succ n ih =>
    obtain ⟨t, ht, hturn⟩ := exec_rolAccumulator_turns s
    obtain ⟨u, hu, hturns⟩ := ih t
    refine ⟨u, by rw [execTimes, ht]; exact hu, fun k hk => ?_⟩
    rw [← hturn k hk, ← hturns _ (Nat.mod_lt _ (by decide)), Nat.mod_add_mod, Nat.add_right_comm, Nat.add_assoc]

/-- Settles O30: nine turns of a ring of nine bits. -/
theorem nineRolsRestore : Obligations.NineRolsRestore := by
  intro s
  obtain ⟨u, hu, hturns⟩ := execTimes_rolAccumulator_turns 9 s
  have hring : ∀ k < 9, ringBit u k = ringBit s k := fun k hk => by
    rw [← hturns k hk, Nat.add_mod_right, Nat.mod_eq_of_lt hk]
  refine ⟨u, hu, BitVec.eq_of_getLsbD_eq fun k hk => ?_, hring 8 (by decide)⟩
  have hne : k ≠ 8 := Nat.ne_of_lt hk
  simpa only [ringBit, if_neg hne] using hring k (by omega)

end Sys2Proof.Machine

/-!
PROOFS. The family of the branches: BCC, BCS, BEQ, BNE, BMI, BPL, BVC and BVS (R170-R178).

The mode Relative is the eight branches' alone, and each is the one control transfer with its flag as the condition
(`meaning_branch`). The transfer resolves its target without a bus access, so PC alone is written, and both ways of
leaving are told by numbers (`toNat_add_sext16`).
-/

namespace Sys2Proof.Machine

/-- Relative is the eight branches' alone (R116). -/
theorem mem_of_admits_relative (mn : Mnemonic) (h : mn.admits .relative = true) :
    mn ∈ [Mnemonic.bcc, .bcs, .beq, .bne, .bmi, .bpl, .bvc, .bvs] := by
  revert h
  cases mn <;> decide

/-- A mnemonic with the mode Relative is a control transfer on the flag it tests (R171-R178). -/
theorem meaning_branch {mn : Mnemonic} (h : mn.admits .relative = true) (m : Mode) (s : State) :
    meaning mn m s = jumpForm m s (branchCondition mn s.p) := by
  have hmem := mem_of_admits_relative mn h
  have flag : ∀ f, getFlag s.p f = s.p.getLsbD f.bit := getFlag_eq s.p
  simp only [List.mem_cons, List.not_mem_nil, or_false] at hmem
  obtain rfl | rfl | rfl | rfl | rfl | rfl | rfl | rfl := hmem <;> simp only [meaning, branchCondition, flag, Flag.bit]

/-- A relative control transfer ends at its target when taken, else past its two bytes (R103, R116). -/
theorem jumpForm_relative (disp : Byte) (s : State) (taken : Bool) :
    jumpForm (.relative disp) s taken = .next (s.setPc (if taken then s.pc + 2 + sext16 disp else s.pc + 2)) := by
  rw [jumpForm_eq taken rfl]
  cases taken <;> rfl

/-- Settles O31: the grid's rows, the one transfer the eight are, and its target told by numbers. -/
theorem branchResults : Obligations.BranchResults := by
  refine ⟨hasForms_iff.2 (by decide), hasForms_iff.2 (by decide), hasForms_iff.2 (by decide),
    hasForms_iff.2 (by decide), hasForms_iff.2 (by decide), hasForms_iff.2 (by decide),
    hasForms_iff.2 (by decide), hasForms_iff.2 (by decide), fun i s disp hi => ?_⟩
  have hadm : i.mnemonic.admits (Mode.relative disp).name = true := hi ▸ Instr.admits_mode i
  refine ⟨_, by rw [exec_eq_meaning, meaning_branch hadm, hi, jumpForm_relative], rfl, ?_⟩
  have hpast : (s.pc + 2).toNat = (s.pc.toNat + 2) % 65536 := BitVec.toNat_add s.pc 2
  rw [State.setPc_pc]
  split
  · rw [toNat_add_sext16, hpast]
    omega
  · omega

end Sys2Proof.Machine

/-!
PROOFS. The family of the compares, the increments and the decrements: CMP, CPX, CPY (R180-R183), INC, DEC (R184, R185),
INX, INY, DEX, DEY (R186-R189).

A step up or down writes Z and N alone, by the stepped byte (`setZN_flags`), whether the byte is a cell's or an index
register's. The three compares are one reading shape over a register (`exec_compare`) that writes P alone.
-/

namespace Sys2Proof.Machine

/-! ### The stepped byte -/

/-- One less is 255 more modulo 256 (R185, R188, R189). -/
theorem toNat_sub_one (v : Byte) : (v - 1).toNat = (v.toNat + 255) % 256 := by
  rw [Nat.add_comm]
  exact BitVec.toNat_sub v 1

/-- The Zero and Negative helper gives the value's Z and N and keeps the other bits of P (R120). -/
theorem setZN_flags (p v : Byte) : ZNof (setZN p v) v ∧ AgreeOn 0x7D (setZN p v) p := by
  have hsame : AgreeOn 0x7D p p := rfl
  exact ⟨ZNof_setZN p v, hsame.setZN v rfl rfl⟩

/-! ### INC and DEC -/

/-- INC and DEC are one shape of meaning over a function that gives the stepped byte and writes Z and N by it; neither
has the accumulator mode (R119, R184, R185). -/
theorem exec_incDec {i : Instr} (h : i.mnemonic ∈ [Mnemonic.inc, .dec]) :
    i.mnemonic.stores = true ∧ i.mnemonic.admits .accumulator = false ∧
      ∃ f, (∀ s, exec i s = modifyForm i.mode s f) ∧
        ∀ m p, (f m p).1.toNat = modifiedValue i.mnemonic m.toNat (carryOf p) ∧ (f m p).2 = setZN p (f m p).1 := by
  simp only [exec_eq_meaning]
  generalize i.mnemonic = mn at *
  simp only [List.mem_cons, List.not_mem_nil, or_false] at h
  obtain rfl | rfl := h
  · exact ⟨rfl, rfl, incOf, fun _ => rfl, fun m _ => ⟨BitVec.toNat_add m 1, rfl⟩⟩
  · exact ⟨rfl, rfl, decOf, fun _ => rfl, fun m _ => ⟨toNat_sub_one m, rfl⟩⟩

/-- Settles O27: the read-modify-write shape on a cell, with the stepped byte and its Z and N. -/
theorem incDecMemoryResults : Obligations.IncDecMemoryResults := by
  refine ⟨hasForms_iff.2 (by decide), hasForms_iff.2 (by decide), fun i s hi => ?_⟩
  obtain ⟨hs, hacc, f, hx, hf⟩ := exec_incDec hi
  have ha : i.mode ≠ .accumulator := fun h => ne_of_admits (Instr.admits_mode i) hacc (congrArg Mode.name h)
  obtain ⟨ea, m, t, hr, hread, hro, hcell, hrom⟩ := exec_of_modifyForm_cell (hx s) hs ha
  obtain ⟨hvalue, hstatus⟩ := hf m s.p
  refine ⟨ea, m, t, hr, hread, hro, fun h => ?_, fun h => ⟨_, hvalue, hrom h⟩⟩
  obtain ⟨w, hw, hu⟩ := hcell h
  rw [hstatus] at hu
  exact ⟨_, w, _, hvalue, hw, hu, rfl, setZN_flags s.p _⟩

/-! ### CMP, CPX and CPY -/

/-- A compare writes C, Z and N (R180). -/
theorem getLsbD_compareStatus (p r m : Byte) (k : Nat) :
    (compareStatus p r m).getLsbD k = if k = 7 then (r - m).getLsbD 7 else if k = 1 then decide (r = m)
      else if k = 0 then decide (m ≤ r) else p.getLsbD k := by
  rw [compareStatus, getLsbD_setFlag, getLsbD_setFlag, getLsbD_setFlag]
  rfl

/-- The flags of a compare told by numbers, and the other bits of P unchanged (R180). -/
theorem compareStatus_flags (p r m : Byte) :
    (compareStatus p r m).getLsbD 0 = decide (m.toNat ≤ r.toNat) ∧
      (compareStatus p r m).getLsbD 1 = decide (r = m) ∧
      (compareStatus p r m).getLsbD 7 = decide (128 ≤ (r.toNat + 256 - m.toNat) % 256) ∧
      AgreeOn 0x7C (compareStatus p r m) p := by
  have hsame : AgreeOn 0x7C p p := rfl
  refine ⟨getLsbD_compareStatus p r m 0, getLsbD_compareStatus p r m 1, ?_,
    ((hsame.setFlag .c _ rfl).setFlag .z _ rfl).setFlag .n _ rfl⟩
  have hm := m.isLt
  have hdiff : (r - m).toNat = (r.toNat + 256 - m.toNat) % 256 := by
    rw [BitVec.toNat_sub]
    omega
  rw [getLsbD_compareStatus, if_pos rfl, getLsbD_seven, hdiff]

/-- CMP, CPX and CPY are one meaning, each over its own register (R181-R183). -/
theorem exec_compare {i : Instr} {s : State} {r : Byte}
    (h : (i.mnemonic = .cmp ∧ r = s.a) ∨ (i.mnemonic = .cpx ∧ r = s.x) ∨ (i.mnemonic = .cpy ∧ r = s.y)) :
    exec i s = compareWith r i.mode s ∧ i.mnemonic.admits .implied = false := by
  rw [exec_eq_meaning]
  obtain ⟨hi, rfl⟩ | ⟨hi, rfl⟩ | ⟨hi, rfl⟩ := h <;> rw [hi] <;> exact ⟨rfl, rfl⟩

/-- Settles O28: a compare is a reading shape that writes P alone, and its status byte has the stated bits. -/
theorem compareResults : Obligations.CompareResults := by
  refine ⟨hasForms_iff.2 (by decide), hasForms_iff.2 (by decide), hasForms_iff.2 (by decide), fun i s r hi => ?_⟩
  obtain ⟨hx, himp⟩ := exec_compare hi
  obtain ⟨m, t, hop, hro, hu⟩ := exec_of_readForm hx himp
  refine ⟨m, t, _, hop, hro, hu, rfl, ?_⟩
  rw [hro]
  exact compareStatus_flags s.p r m

/-! ### INX, INY, DEX and DEY -/

/-- Settles O29: an implied shape that steps its index register and sets Z and N by the stepped byte. -/
theorem indexStepResults : Obligations.IndexStepResults := by
  refine ⟨hasForms_iff.2 (by decide), hasForms_iff.2 (by decide), hasForms_iff.2 (by decide),
    hasForms_iff.2 (by decide), fun s => ⟨?inx, ?iny, ?dex, ?dey⟩⟩
  case inx => exact ⟨_, rfl, rfl, BitVec.toNat_add s.x 1, setZN_flags s.p _⟩
  case iny => exact ⟨_, rfl, rfl, BitVec.toNat_add s.y 1, setZN_flags s.p _⟩
  case dex => exact ⟨_, rfl, rfl, toNat_sub_one s.x, setZN_flags s.p _⟩
  case dey => exact ⟨_, rfl, rfl, toNat_sub_one s.y, setZN_flags s.p _⟩

end Sys2Proof.Machine

/-!
PROOFS. The family of the stack: PHA, PHP (R200, R201), PLA and PLP (R202, R203).

A push or a pull never faults, since every stack address is a cell in either map (`push_eq`, `pop_eq`); so each of the
four is its shape's one outcome (`pushForm_eq`, `pullForm_eq`), with SP told by numbers.
-/

namespace Sys2Proof.Machine

/-- Settles O35: each push is the one outcome of its shape, with A or P as the byte. -/
theorem pushResults : Obligations.PushResults :=
  ⟨hasForms_iff.2 (by decide), hasForms_iff.2 (by decide), fun s =>
    ⟨s.sp - 1, toNat_sub_one s.sp, pushForm_eq s s.a, pushForm_eq s s.p⟩⟩

/-- Settles O36: each pull is the one outcome of its shape; the flags of PLA are those of the pulled byte. -/
theorem pullResults : Obligations.PullResults := by
  refine ⟨hasForms_iff.2 (by decide), hasForms_iff.2 (by decide), fun s =>
    ⟨s.sp + 1, BitVec.toNat_add s.sp 1, ?pla, ?plp⟩⟩
  case pla => exact ⟨_, pullForm_eq s fun v t => (t.setA v).setP (setZN t.p v), rfl, setZN_flags s.p _⟩
  case plp => exact pullForm_eq s fun v t => t.setP v

end Sys2Proof.Machine

/-!
PROOFS. The family of the jumps, the calls and the returns: JMP (R210, R113), JSR (R211), RTS (R212) and RTI (R213).

The indirect JMP is the word at two addresses, the second of them told by numbers (`indirectHighAddr_toNat`). No push or
pop faults (`push_eq`, `pop_eq`), so JSR, RTS and RTI are one equation each over the stack's cells, and a return after a
call reads the two cells the call wrote, which are distinct.
-/

namespace Sys2Proof.Machine

/-! ### JMP -/

theorem wordOf_eq_ofNat (hi lo : Byte) : wordOf hi lo = BitVec.ofNat 16 (256 * hi.toNat + lo.toNat) := by
  rw [← wordOf_toNat, BitVec.ofNat_toNat, BitVec.setWidth_eq]

/-- Masking the low byte away gives the start of the address's page (R113). -/
theorem and_0xFF00_toNat (w : Addr) : (w &&& 0xFF00).toNat = w.toNat - w.toNat % 256 := by
  have hpage : w &&& 0xFF00 = wordOf (highByte w) 0#8 := by
    calc w &&& 0xFF00
      _ = (highByte w ++ lowByte w) &&& (BitVec.allOnes 8 ++ 0#8) := congrArg (· &&& 0xFF00) (wordOf_high_low w).symm
      _ = wordOf (highByte w) 0#8 := by rw [BitVec.and_append, BitVec.and_allOnes, BitVec.and_zero, wordOf]
  rw [hpage, wordOf_toNat, highByte_toNat, BitVec.toNat_zero]
  omega

/-- Where an indirect JMP reads the high byte of its target (R113). -/
def indirectHighAddr (c : Config) (ptr : Addr) : Addr :=
  if c.jmpIndirectPageWrap && lowByte ptr = 0xFF then ptr &&& 0xFF00 else ptr + 1

theorem resolve_indirect (ptr : Addr) (s : State) :
    resolve (.indirect ptr) s = .ok (readWordAt s ptr (indirectHighAddr s.cfg ptr)) := rfl

/-- With the page wrap a pointer to a page's last byte takes its high byte from the page's start, else from the next
address modulo 65536 (R113). -/
theorem indirectHighAddr_toNat (c : Config) (ptr : Addr) :
    (indirectHighAddr c ptr).toNat =
      if c.jmpIndirectPageWrap = true ∧ ptr.toNat % 256 = 255 then ptr.toNat - 255 else (ptr.toNat + 1) % 65536 := by
  have hlow : lowByte ptr = 0xFF ↔ ptr.toNat % 256 = 255 := by
    rw [← lowByte_toNat]
    exact BitVec.toNat_inj.symm
  simp only [indirectHighAddr, Bool.and_eq_true, decide_eq_true_iff, hlow]
  split
  · next h => rw [and_0xFF00_toNat, h.2]
  · exact BitVec.toNat_add ptr 1

/-- Indirect is JMP's alone (R113). -/
theorem eq_jmp_of_admits_indirect (mn : Mnemonic) (h : mn.admits .indirect = true) : mn = .jmp := by
  revert h
  cases mn <;> decide

/-- Settles O32: both forms are the one control transfer, whose indirect target is the word of two reads. -/
theorem jmpResult : Obligations.JmpResult := by
  refine ⟨hasForms_iff.2 (by decide), fun i hi => ⟨?_, ?_⟩, fun addr s => rfl, fun ptr s => ?_⟩
  · exact eq_jmp_of_admits_indirect _ (hi ▸ Instr.admits_mode i)
  · exact congrArg ModeName.length hi
  · refine ⟨_, _, _, _, _, indirectHighAddr_toNat s.cfg ptr, rfl, rfl, readWordAt_readsOnly s _ _, ?_⟩
    rw [← wordOf_eq_ofNat]
    exact jumpForm_eq true (resolve_indirect ptr s)

/-! ### JSR -/

/-- JSR pushes the address of its last byte, the high byte first, and takes its operand (R211). -/
theorem exec_jsr (addr : Addr) (s : State) :
    exec (.jsr addr) s = .next
      { s with
        mem := Memory.write (Memory.write s.mem (256 + s.sp.toNat) (highByte (s.pc + 2)))
          (256 + (s.sp - 1).toNat) (lowByte (s.pc + 2))
        sp := s.sp - 2
        pc := addr } := by
  have hsp : s.sp - 2 = s.sp - 1 - 1 := by bv_omega
  rw [hsp]
  exact callForm_eq (m := .absolute addr) rfl

/-- Settles O33: the two pushed bytes are those of the return address. -/
theorem jsrResult : Obligations.JsrResult := by
  refine ⟨hasForms_iff.2 (by decide), fun addr s => ⟨highByte (s.pc + 2), lowByte (s.pc + 2), ?_, ?_⟩⟩
  · rw [← wordOf_toNat, wordOf_high_low]
    exact BitVec.toNat_add s.pc 2
  · rw [exec_jsr, toNat_sub_one]

/-! ### RTS and RTI -/

/-- RTS takes the popped word plus one (R212). -/
theorem exec_rts (s : State) :
    exec .rts s = .next
      { s with
        sp := s.sp + 2
        pc :=
          wordOf (Memory.read s.mem (256 + (s.sp + 2).toNat)) (Memory.read s.mem (256 + (s.sp + 1).toNat)) + 1 } := by
  have hsp : s.sp + 2 = s.sp + 1 + 1 := by bv_omega
  rw [hsp, exec_eq_meaning]
  simp only [Instr.mnemonic, meaning, execRts, popWord_eq]
  rfl

/-- RTI takes the first popped byte as P and the word popped after it as PC (R213). -/
theorem exec_rti (s : State) :
    exec .rti s = .next
      { s with
        p := Memory.read s.mem (256 + (s.sp + 1).toNat)
        sp := s.sp + 3
        pc := wordOf (Memory.read s.mem (256 + (s.sp + 3).toNat)) (Memory.read s.mem (256 + (s.sp + 2).toNat)) } := by
  have hsp2 : s.sp + 2 = s.sp + 1 + 1 := by bv_omega
  have hsp3 : s.sp + 3 = s.sp + 1 + 1 + 1 := by bv_omega
  rw [hsp2, hsp3, exec_eq_meaning]
  simp only [Instr.mnemonic, meaning, execRti, pop_eq, popWord_eq]
  rfl

/-- Settles O34, with the popped word and SP told by numbers. -/
theorem returnResults : Obligations.ReturnResults := by
  refine ⟨hasForms_iff.2 (by decide), hasForms_iff.2 (by decide), fun s => ?_⟩
  have h1 : (s.sp + 1).toNat = (s.sp.toNat + 1) % 256 := BitVec.toNat_add s.sp 1
  have h2 : (s.sp + 2).toNat = (s.sp.toNat + 2) % 256 := BitVec.toNat_add s.sp 2
  have h3 : (s.sp + 3).toNat = (s.sp.toNat + 3) % 256 := BitVec.toNat_add s.sp 3
  rw [← h1, ← h2, ← h3]
  refine ⟨⟨_, ?_, exec_rts s⟩, ⟨_, wordOf_toNat _ _, exec_rti s⟩⟩
  rw [← wordOf_toNat]
  exact BitVec.toNat_add _ 1

/-! ### A call and its return -/

/-- Settles O38: RTS pops the two bytes JSR pushed, from distinct cells, and steps past the JSR's last byte. -/
theorem callThenReturnRestores : Obligations.CallThenReturnRestores := by
  intro addr s
  refine ⟨_, exec_jsr addr s, rfl, ?_⟩
  have hcells : 256 + s.sp.toNat ≠ 256 + (s.sp - 1).toNat := by bv_omega
  have hlow : s.sp - 2 + 1 = s.sp - 1 := by bv_omega
  have hpc : s.pc + 2 + 1 = s.pc + 3 := by bv_omega
  rw [exec_rts]
  simp only [BitVec.sub_add_cancel, hlow, Memory.read_write_same, Memory.read_write_other _ _ hcells, wordOf_high_low,
    hpc]

end Sys2Proof.Machine

/-!
PROOFS. The family of the transfers, the loads, the stores and the flags (R220-R248), and of how runs end and begin:
the outcomes of a step (R260-R266), the run loop (R275, R277), Reset (R301, R302) and the flat launch (R304).

A load is one reading shape over the register it puts its operand in (`exec_load`), and a store one bus write at the
resolved address (`exec_of_storeForm`). A step that fetched an instruction ends as the meaning does (`settle_run`): only
an instruction that stores can end in RomWrite, and it does so at a ROM target of the map (`exec_run`).
-/

namespace Sys2Proof.Machine

/-! ### Transfers -/

/-- Settles O39: each transfer is an implied shape; all but TXS set Z and N by the byte they copy. -/
theorem transferResults : Obligations.TransferResults := by
  refine ⟨hasForms_iff.2 (by decide), hasForms_iff.2 (by decide), hasForms_iff.2 (by decide),
    hasForms_iff.2 (by decide), hasForms_iff.2 (by decide), hasForms_iff.2 (by decide),
    fun s => ⟨?tax, ?tay, ?tsx, ?txa, ?tya, ?txs⟩⟩
  case tax => exact ⟨_, rfl, setZN_flags s.p s.a⟩
  case tay => exact ⟨_, rfl, setZN_flags s.p s.a⟩
  case tsx => exact ⟨_, rfl, setZN_flags s.p s.sp⟩
  case txa => exact ⟨_, rfl, setZN_flags s.p s.x⟩
  case tya => exact ⟨_, rfl, setZN_flags s.p s.y⟩
  case txs => rfl

/-! ### Loads -/

/-- LDA, LDX and LDY are one reading shape, each over the register it puts its operand in (R226-R228). -/
theorem exec_load {i : Instr} (h : i.mnemonic ∈ [Mnemonic.lda, .ldx, .ldy]) :
    ∃ put : State → Byte → State, i.mnemonic.admits .implied = false ∧
      (∀ s, exec i s = readForm i.mode s fun v t => (put t v).setP (setZN t.p v)) ∧
      (i.mnemonic = .lda → put = State.setA) ∧ (i.mnemonic = .ldx → put = State.setX) ∧
      (i.mnemonic = .ldy → put = State.setY) := by
  simp only [exec_eq_meaning]
  generalize i.mnemonic = mn at *
  simp only [List.mem_cons, List.not_mem_nil, or_false] at h
  obtain rfl | rfl | rfl := h
  · exact ⟨State.setA, rfl, fun _ => rfl, fun _ => rfl, nofun, nofun⟩
  · exact ⟨State.setX, rfl, fun _ => rfl, nofun, fun _ => rfl, nofun⟩
  · exact ⟨State.setY, rfl, fun _ => rfl, nofun, nofun, fun _ => rfl⟩

/-- Settles O40: the operand into the mnemonic's register, and its Z and N into the P that reading it has kept. -/
theorem loadResults : Obligations.LoadResults := by
  refine ⟨hasForms_iff.2 (by decide), hasForms_iff.2 (by decide), hasForms_iff.2 (by decide), fun i s hi => ?_⟩
  obtain ⟨put, himp, hx, hlda, hldx, hldy⟩ := exec_load hi
  obtain ⟨m, t, hop, hro, hu⟩ := exec_of_readForm (hx s) himp
  have hp : t.p = s.p := by rw [hro]
  obtain ⟨hzn, hsame⟩ := setZN_flags s.p m
  refine ⟨m, t, setZN s.p m, hop, hro, hzn, hsame, fun h => ?_, fun h => ?_, fun h => ?_⟩
  · rw [hu, hlda h, ← hp]
    rfl
  · rw [hu, hldx h, ← hp]
    rfl
  · rw [hu, hldy h, ← hp]
    rfl

/-! ### Stores -/

/-- A store is one bus write at the resolved address, the target unread and PC past the instruction, or RomWrite and no
other effect (R48, R229-R231). -/
theorem exec_of_storeForm {i : Instr} {s : State} {v : Byte} (hx : exec i s = storeForm i.mode s v)
    (hs : i.mnemonic.stores = true) (hacc : i.mnemonic.admits .accumulator = false) :
    ∃ ea, resolve i.mode s = .ok (ea, s) ∧
      (romTarget s.cfg ea = false → ∃ w, busWrite s ea v = .ok w ∧ exec i s = .next { w with pc := pcAfter i s }) ∧
      (romTarget s.cfg ea = true → exec i s = .next { s with run := .halted (.romWrite ea v) }) := by
  obtain ⟨himp, himm, hind⟩ := admits_of_stores hs
  have hadm := Instr.admits_mode i
  have hm := ne_of_admits hadm himm
  have hname := ne_of_admits hadm hacc
  have ha : i.mode ≠ .accumulator := fun h => hname (congrArg Mode.name h)
  obtain ⟨ea, hr⟩ := resolve_without_event s (ne_of_admits hadm himp) hname (ne_of_admits hadm hind)
  refine ⟨ea, hr, fun hrom => ?_, fun hrom => ?_⟩
  · obtain ⟨w, hw⟩ := busWrite_of_not_romTarget v hrom
    refine ⟨w, hw, ?_⟩
    rw [hx, storeForm_ok hm ha hr hw, State.advance, (busWrite_samePcRun hw).1]
    rfl
  · rw [hx, storeForm_error hm ha hr (busWrite_of_romTarget v hrom)]
    rfl

/-- STA, STX and STY are one shape of meaning over the register they store; none has the accumulator mode
(R229-R231). -/
theorem exec_store {i : Instr} (h : i.mnemonic ∈ [Mnemonic.sta, .stx, .sty]) (s : State) :
    exec i s = storeForm i.mode s (storedRegister i.mnemonic s) ∧ i.mnemonic.stores = true ∧
      i.mnemonic.admits .accumulator = false := by
  rw [exec_eq_meaning]
  generalize i.mnemonic = mn at *
  simp only [List.mem_cons, List.not_mem_nil, or_false] at h
  obtain rfl | rfl | rfl := h <;> exact ⟨rfl, rfl, rfl⟩

/-- Settles O41: the storing shape over the stored register. -/
theorem storeResults : Obligations.StoreResults := by
  refine ⟨hasForms_iff.2 (by decide), hasForms_iff.2 (by decide), hasForms_iff.2 (by decide), fun i s hi => ?_⟩
  obtain ⟨hx, hs, hacc⟩ := exec_store hi s
  exact exec_of_storeForm hx hs hacc

/-! ### Flags, BRK and NOP -/

/-- A flag instruction writes its flag's bit of P, moves PC by one, and changes nothing else (R240-R246). -/
theorem writeFlag_bits (s : State) (f : Flag) (b : Bool) :
    ∃ p, writeFlag s f b = .next { s with p := p, pc := s.pc + 1 } ∧
      ∀ k, p.getLsbD k = if k = f.bit then b else s.p.getLsbD k :=
  ⟨_, rfl, getLsbD_setFlag s.p f b⟩

/-- Settles O42: each is the one flag write, of its flag's bit. -/
theorem flagInstrResults : Obligations.FlagInstrResults := by
  refine ⟨hasForms_iff.2 (by decide), hasForms_iff.2 (by decide), hasForms_iff.2 (by decide),
    hasForms_iff.2 (by decide), hasForms_iff.2 (by decide), hasForms_iff.2 (by decide),
    hasForms_iff.2 (by decide), fun i s bit b hi => ?_⟩
  simp only [List.mem_cons, List.not_mem_nil, or_false, Prod.mk.injEq] at hi
  obtain ⟨rfl, rfl, rfl⟩ | ⟨rfl, rfl, rfl⟩ | ⟨rfl, rfl, rfl⟩ | ⟨rfl, rfl, rfl⟩ | ⟨rfl, rfl, rfl⟩ | ⟨rfl, rfl, rfl⟩ |
    ⟨rfl, rfl, rfl⟩ := hi
  · exact writeFlag_bits s .c false
  · exact writeFlag_bits s .d false
  · exact writeFlag_bits s .i false
  · exact writeFlag_bits s .v false
  · exact writeFlag_bits s .c true
  · exact writeFlag_bits s .d true
  · exact writeFlag_bits s .i true

/-- Settles O43: both are the implied shape's one outcome. -/
theorem brkNopResults : Obligations.BrkNopResults :=
  ⟨hasForms_iff.2 (by decide), hasForms_iff.2 (by decide), fun s =>
    ⟨impliedForm_eq s fun t => haltBrk t s.pc, impliedForm_eq s id⟩⟩

/-! ### How a step of a running core ends -/

/-- A defined opcode is fetched with its operand bytes: there is no other fault of the fetch (R100, R262). -/
theorem fetchInstr_of_defined {s : State} (h : (busRead s s.pc).1 ∉ undefinedOpcodes) :
    ∃ i t, fetchInstr s = (.ok i, t) := by
  cases ho : opcodeForm (busRead s s.pc).1 with
  | none => exact absurd ((opcodeForm_eq_none_iff _).1 ho) h
  | some form => cases form <;> exact ⟨_, _, by rw [fetchInstr, ho]⟩

/-- Settling a step keeps the run state of the meaning (R101). -/
theorem settle_run (start u : State) : (settle start u).run = u.run := by
  obtain h | ⟨e, he, -, h⟩ := settle_eq start u
  · rw [h]
  · rw [h, raise_run, he]

/-- An instruction that stores is a store or a read-modify-write (R122, R229-R231). -/
theorem exec_of_stores {i : Instr} (hs : i.mnemonic.stores = true) (s : State) :
    (∃ v, exec i s = storeForm i.mode s v ∧ i.mnemonic.admits .accumulator = false) ∨
      ∃ f, exec i s = modifyForm i.mode s f := by
  rw [exec_eq_meaning]
  generalize i.mnemonic = mn at *
  cases mn
  case sta | stx | sty => exact .inl ⟨_, rfl, rfl⟩
  case asl | lsr | rol | ror | inc | dec => exact .inr ⟨_, rfl⟩
  all_goals cases hs

/-- An instruction that stores keeps the run state or ends in RomWrite at a ROM target (R48, R263). -/
theorem exec_run_of_stores {i : Instr} (hs : i.mnemonic.stores = true) (s : State) :
    ∃ u, exec i s = .next u ∧
      (u.run = s.run ∨ ∃ ea v, romTarget s.cfg ea = true ∧ u.run = .halted (.romWrite ea v)) := by
  obtain ⟨v, hx, hacc⟩ | ⟨f, hx⟩ := exec_of_stores hs s
  · obtain ⟨ea, -, hcell, hrom⟩ := exec_of_storeForm hx hs hacc
    cases ht : romTarget s.cfg ea with
    | true => exact ⟨_, hrom ht, .inr ⟨ea, v, ht, rfl⟩⟩
    | false =>
      obtain ⟨w, hw, hu⟩ := hcell ht
      exact ⟨_, hu, .inl (busWrite_samePcRun hw).2⟩
  · by_cases ha : i.mode = .accumulator
    · rw [ha, modifyForm_accumulator] at hx
      exact ⟨_, hx, .inl rfl⟩
    obtain ⟨ea, m, t, -, -, hro, hcell, hrom⟩ := exec_of_modifyForm_cell hx hs ha
    cases ht : romTarget s.cfg ea with
    | true => exact ⟨_, hrom ht, .inr ⟨ea, _, ht, rfl⟩⟩
    | false =>
      obtain ⟨w, hw, hu⟩ := hcell ht
      exact ⟨_, hu, .inl (hro.samePcRun.trans (busWrite_samePcRun hw)).2⟩

/-- An instruction that does not store keeps the run state or is BRK: its mode has an operand or an address wherever its
meaning asks for one (R104, R117, R247). -/
theorem exec_run_of_not_stores {i : Instr} (hs : i.mnemonic.stores = false) (s : State) :
    ∃ u, exec i s = .next u ∧ (u.run = s.run ∨ u.run = .halted (.brk s.pc)) := by
  rw [exec_eq_meaning]
  have hadm := Instr.admits_mode i
  generalize i.mnemonic = mn at *
  generalize i.mode = m at *
  have other : ∀ {k : Mode}, mn.admits k.name = false → m ≠ k := fun hk h =>
    ne_of_admits hadm hk (congrArg Mode.name h)
  cases mn
  case asl | lsr | rol | ror | inc | dec | sta | stx | sty => cases hs
  case adc | sbc | and | ora | eor | bit | cmp | cpx | cpy | lda | ldx | ldy =>
    obtain ⟨v, t, hop⟩ := operandRead_some m s (other rfl)
    dsimp only [meaning]
    exact ⟨_, readForm_eq _ hop, .inl (operandRead_readsOnly hop).samePcRun.2⟩
  case bcc | bcs | beq | bne | bmi | bpl | bvc | bvs | jmp =>
    obtain ⟨ea, t, hr⟩ := resolve_ok m s (other rfl) (other rfl)
    refine ⟨_, jumpForm_eq _ hr, .inl ?_⟩
    split <;> exact (resolve_readsOnly hr).samePcRun.2
  case jsr =>
    obtain ⟨ea, t, hr⟩ := resolve_ok m s (other rfl) (other rfl)
    exact ⟨_, callForm_eq hr, .inl (resolve_readsOnly hr).samePcRun.2⟩
  case pha | php => exact ⟨_, pushForm_eq s _, .inl rfl⟩
  case pla | plp =>
    dsimp only [meaning]
    exact ⟨_, pullForm_eq s _, .inl rfl⟩
  case rts => exact ⟨_, exec_rts s, .inl rfl⟩
  case rti => exact ⟨_, exec_rti s, .inl rfl⟩
  case brk => exact ⟨_, rfl, .inr rfl⟩
  case inx | iny | dex | dey | tax | tay | tsx | txa | txs | tya | clc | cld | cli | clv | sec | sed | sei | nop =>
    exact ⟨_, rfl, .inl rfl⟩

/-- The run states an instruction can end in: the one it began in, BRK's halt at the instruction, or RomWrite at a ROM
target; never the resolver's sentinel (R247, R263, R264). -/
theorem exec_run (i : Instr) (s : State) :
    ∃ u, exec i s = .next u ∧ (u.run = s.run ∨ u.run = .halted (.brk s.pc) ∨
      ∃ ea v, romTarget s.cfg ea = true ∧ u.run = .halted (.romWrite ea v)) := by
  cases hs : i.mnemonic.stores with
  | true =>
    obtain ⟨u, hu, hrun⟩ := exec_run_of_stores hs s
    exact ⟨u, hu, hrun.imp_right .inr⟩
  | false =>
    obtain ⟨u, hu, hrun⟩ := exec_run_of_not_stores hs s
    exact ⟨u, hu, hrun.imp_right .inl⟩

/-- Settles O10: an undefined opcode is the fault of the fetch, and a fetched instruction ends as its meaning does. -/
theorem runningStepOutcome : Obligations.RunningStepOutcome := by
  intro s hrun
  by_cases hop : (busRead s s.pc).1 ∈ undefinedOpcodes
  · have hfetch := fetchInstr_of_undefined ((opcodeForm_eq_none_iff _).2 hop)
    exact ⟨_, step_of_fetch_error hrun hfetch, .inr (.inr (.inl ⟨_, hop, rfl⟩))⟩
  · obtain ⟨i, t, hf⟩ := fetchInstr_of_defined hop
    have hro : ReadsOnly s t := by
      have hread := fetchInstr_readsOnly s
      rwa [hf] at hread
    obtain ⟨u, hu, hend⟩ := exec_run i t
    rw [hro.samePcRun.1, hro.samePcRun.2, hro.cfg_eq, hrun] at hend
    refine ⟨_, step_of_fetch hrun hf hu, ?_⟩
    rw [settle_run]
    exact hend.imp_right fun h => h.imp_right .inr

/-! ### The run loop -/

/-- A core that does not run gets neither hook nor step (R277). -/
theorem runHost_of_not_running (hook : Hook) (n : Nat) {s : State} (h : s.run ≠ .running) : runHost hook n s = s := by
  cases n with
  | zero => rfl
  | succ n =>
    rw [runHost]
    cases hr : s.run with
    | running => exact absurd hr h
    | awaitingReset => rfl
    | halted e => rfl

/-- On a running core a unit of fuel is the hook and then one step (R277). -/
theorem runHost_succ_of_step {hook : Hook} {s t : State} (n : Nat) (hrun : s.run = .running)
    (hstep : step (applyHook hook s) = .next t) : runHost hook (n + 1) s = runHost hook n t := by
  simp only [runHost, hrun, hstep]

/-- Where the hook's state does not step, the run ends with it (log entry 9). -/
theorem runHost_succ_of_stuck {hook : Hook} {s : State} (n : Nat) (hrun : s.run = .running)
    (hstuck : ∀ t, step (applyHook hook s) ≠ .next t) : runHost hook (n + 1) s = applyHook hook s := by
  simp only [runHost, hrun]
  cases hstep : step (applyHook hook s) with
  | next t => exact absurd hstep (hstuck t)
  | fault r => rfl
  | refused r => rfl

/-- A run that has ended halted stays as it is under more fuel (R277). -/
theorem runHost_add_of_halted (hook : Hook) (n k : Nat) {s : State} {e : HaltReason}
    (h : (runHost hook n s).run = .halted e) : runHost hook (n + k) s = runHost hook n s := by
  induction n generalizing s with
  | zero => exact runHost_of_not_running hook (0 + k) fun hrun => nomatch hrun.symm.trans h
  | succ n ih =>
    rw [Nat.add_right_comm]
    by_cases hrun : s.run = .running
    · by_cases hstep : ∃ t, step (applyHook hook s) = .next t
      · obtain ⟨t, ht⟩ := hstep
        rw [runHost_succ_of_step n hrun ht] at h ⊢
        rw [runHost_succ_of_step (n + k) hrun ht, ih h]
      · rw [not_exists] at hstep
        rw [runHost_succ_of_stuck (n + k) hrun hstep, runHost_succ_of_stuck n hrun hstep]
    · rw [runHost_of_not_running hook (n + k + 1) hrun, runHost_of_not_running hook (n + 1) hrun]

/-- Settles O59, from the loop's three cases. -/
theorem runStopsAtHalt : Obligations.RunStopsAtHalt := by
  refine ⟨fun hook n k s e => runHost_add_of_halted hook n k, fun hook s => rfl,
    fun hook n s t => runHost_succ_of_step n, fun hook n s hrun hh => ?_,
    fun hook n s => runHost_of_not_running hook n, fun s => rfl,
    fun h s => ⟨_, le_max_left _ _, le_max_right _ _, rfl⟩⟩
  exact runHost_succ_of_stuck n hrun fun t ht => hh (running_of_step ht)

/-! ### Reset -/

/-- Settles O12: the reset state has no cell and a blank image. -/
theorem resetIsWellFormed : Obligations.ResetIsWellFormed := rfl

/-- Settles O54: the vector is read from the cleared state, and only PC, the log and the draws come from that read. -/
theorem hostResetResult : Obligations.HostResetResult := fun s v => ⟨s.draws, _, _, _, rfl, hostReset_eq s v⟩

/-- Settles O55: the default vector's two bytes are 0x00 in the blank image. -/
theorem resetStateValues : Obligations.ResetStateValues := by
  refine ⟨rfl, rfl, rfl, rfl, rfl, rfl, rfl, Memory.read_nil, ?_⟩
  have hvector : memRead2 (clearedForReset State.reset) 0xFFFC = (0x0000, clearedForReset State.reset) :=
    memRead2_prg (s := clearedForReset State.reset) (addr := 0xFFFC) rfl (by decide) (by decide)
  rw [hostReset_eq, hvector]
  rfl

/-! ### The flat launch -/

/-- In the flat map a 16-bit read joins the bytes of two cells and changes nothing (R49, R50). -/
theorem memRead2_flat {s : State} (hb : s.cfg.bus = .flat) (addr : Addr) :
    memRead2 s addr =
      (wordOf (Memory.read s.mem ((addr.toNat + 1) % 65536)) (Memory.read s.mem addr.toNat), s) := by
  have hnext : (addr + 1).toNat = (addr.toNat + 1) % 65536 := BitVec.toNat_add addr 1
  rw [memRead2_of_cells (cellOf_flat hb addr) (cellOf_flat hb (addr + 1)), hnext]

/-- A word is joined from its two bytes told by numbers (R8, R52). -/
theorem wordOf_ofNat (v : Addr) :
    wordOf (BitVec.ofNat 8 (v.toNat / 256)) (BitVec.ofNat 8 (v.toNat % 256)) = v := by
  rw [← highByte_toNat, ← lowByte_toNat, BitVec.ofNat_toNat, BitVec.ofNat_toNat]
  exact wordOf_high_low v

/-- Settles O57: the Load of O56 over the empty memory of creation, and Reset through two cells of what it wrote. -/
theorem flatLaunchEntersProgram : Obligations.FlatLaunchEntersProgram := by
  intro c bytes
  obtain ⟨t, hload, ht, hcells⟩ :=
    hostLoadWritesProgram.1 (createdState { c with bus := .flat }) bytes c.loadAddress rfl
  have hcfg : t.cfg = { c with bus := .flat } := by rw [ht]; rfl
  have hread := memRead2_flat (s := clearedForReset t) (congrArg Config.bus hcfg) c.resetVector
  refine ⟨_, by rw [launchFlat, hload], ?_⟩
  rw [hostReset_eq, hread]
  refine ⟨hcfg, rfl, rfl, rfl, rfl, rfl, rfl, rfl, hcells, wordOf_toNat _ _, fun hv => ?_⟩
  have hlow := (hcells 0xFFFC (by decide)).trans (if_pos rfl)
  have hhigh := (hcells 0xFFFD (by decide)).trans ((if_neg (by decide)).trans (if_pos rfl))
  calc wordOf (Memory.read t.mem ((c.resetVector.toNat + 1) % 65536)) (Memory.read t.mem c.resetVector.toNat)
    _ = wordOf (Memory.read t.mem 0xFFFD) (Memory.read t.mem 0xFFFC) := by rw [hv]; rfl
    _ = c.loadAddress := by rw [hlow, hhigh, wordOf_ofNat]

end Sys2Proof.Machine
